-- ==== Sys2Proof/Word.lean ====
section
/-! DEFINITION. The word types of the CORE (spec 00_scope R5, R9): widths only. -/

namespace Sys2Proof

/-- Every datapath value, address and latch of the CORE: 16 bits (00_scope R5, `XLEN`). -/
abbrev Word := BitVec 16

/-- One byte lane of memory (20_memory R60). -/
abbrev Byte := BitVec 8

/-- The number of a general register, 0 to 7 (10_state R27). -/
abbrev RegIdx := BitVec 3

/-- A control-store index, 0 to 63 (10_state R28). -/
abbrev StateIdx := BitVec 6

end Sys2Proof
end

