-- ==== Sys2Proof/ControlWord.lean ====
section
/-! DEFINITION. The control word as the record of named fields that spec 30_encoding R90 makes normative. -/

namespace Sys2Proof

/-- A control word: the 26 fields of 30_encoding R90, in its order; a flag is a `Bool`, a coded selector keeps its code
(R92). Its packing into 35 bits is in Decode.lean. -/
structure ControlWord where
  /-- dispatch on the opcode -/
  ird : Bool
  /-- which bit of `j` is overridden -/
  cond : BitVec 2
  /-- base of the next state index -/
  j : StateIdx
  ldMar : Bool
  ldMdr : Bool
  ldIr : Bool
  ldBen : Bool
  ldReg : Bool
  ldCc : Bool
  ldPc : Bool
  gatePc : Bool
  gateMdr : Bool
  gateAlu : Bool
  gateMarmux : Bool
  gateShf : Bool
  /-- PC-source select -/
  pcMux : BitVec 2
  /-- destination register: `IR[11:9]` or register 7 -/
  drMux : Bool
  /-- ALU operand A: `IR[11:9]` or `IR[8:6]` -/
  sr1Mux : Bool
  /-- adder base: PC or `IR[8:6]` -/
  addr1Mux : Bool
  /-- adder offset, four ways -/
  addr2Mux : BitVec 2
  /-- MAR-source: shifted low byte or adder -/
  marMux : Bool
  aluK : BitVec 2
  /-- memory-enable -/
  mioEn : Bool
  /-- write (1) or read (0) -/
  rW : Bool
  /-- word (1) or byte (0) -/
  dataSize : Bool
  /-- shift the offset left by one -/
  lshf1 : Bool
deriving DecidableEq, Repr

/-- The all-zero control word: every field 0 (30_encoding R102, "every field not named is 0"). -/
def ControlWord.zero : ControlWord :=
  { ird := false, cond := 0, j := 0, ldMar := false, ldMdr := false, ldIr := false, ldBen := false, ldReg := false,
    ldCc := false, ldPc := false, gatePc := false, gateMdr := false, gateAlu := false, gateMarmux := false,
    gateShf := false, pcMux := 0, drMux := false, sr1Mux := false, addr1Mux := false, addr2Mux := 0, marMux := false,
    aluK := 0, mioEn := false, rW := false, dataSize := false, lshf1 := false }

end Sys2Proof
end

