-- ==== Sys2Proof/Syntax.lean ====
section
/-! DEFINITION. The micro-operations: one constructor per row of spec/opcode_table.json, in the table's order (30_encoding R96). -/

namespace Sys2Proof

/-- A micro-operation (30_encoding R96). A control word selects one row of each group and all of them take place in the
same cycle. An operand is a field the row's own word holds: `j` of the control word for the sequencer rows, fields of IR for
the rows of format IR. -/
inductive Instr where
  -- micro-sequencer, 40_sequencer R132 to R136
  | seqDispatch
  | seqNext (j : StateIdx)
  | seqMemwait (j : StateIdx)
  | seqBranch (j : StateIdx)
  | seqAddrmode (j : StateIdx)
  -- memory timing unit, 41_memory_timing R153 to R157
  | memIdle
  | memRdB
  | memRdW
  | memWrB
  | memWrW
  -- ALU operation, 42_datapath_units R172 to R175
  | aluAdd
  | aluAnd
  | aluXor
  | aluPassa
  -- ALU operand A, R170
  | sr1Ir11_9
  | sr1Ir8_6
  -- ALU operand B, R171 (format IR): register IR[2:0], immediate IR[4:0]
  | opbReg (sr2 : RegIdx)
  | opbImm5 (imm5 : BitVec 5)
  -- shifter, R177 to R180 (format IR): source IR[8:6], amount IR[3:0]
  | shfLshf (sr : RegIdx) (amount : BitVec 4)
  | shfRshfl (sr : RegIdx) (amount : BitVec 4)
  | shfReserved
  | shfRshfa (sr : RegIdx) (amount : BitVec 4)
  -- address adder offset, R181
  | addr2Zero
  | addr2Off6
  | addr2Off9
  | addr2Off11
  -- offset shift, R182
  | lshf1Off
  | lshf1On
  -- adder base, R183
  | addr1Pc
  | addr1Baser
  -- MAR-source mux, R185
  | marmuxVect8
  | marmuxAdder
  -- bus driver, 43_bus_arbiter R211, R213
  | busNone
  | gatePc
  | gateMdr
  | gateAlu
  | gateMarmux
  | gateShf
  -- PC load, 44_latch_update R220, R223 and 42_datapath_units R186
  | pcHold
  | pcInc2
  | pcBus
  | pcAdder
  | pcReserved
  -- other loads, 44_latch_update R221 to R228
  | ldMar
  | ldIr
  | ldMdrBus
  | ldMdrMem
  | ldCc
  | ldBen
  | ldRegIr
  | ldRegR7
deriving DecidableEq, Repr

end Sys2Proof
end

