-- ==== Sys2Proof/WellFormed.lean ====
section
/-! DEFINITION. A microinstruction as the micro-operations it selects, one slot per group, and when such a selection is
well-formed (spec 30_encoding R96). The fields of a micro-operation are bit vectors of their exact widths, so a single `Instr`
needs no check; a selection does. -/

namespace Sys2Proof

/-- The groups of 30_encoding R96; its "other loads" are one group per register here, since each load-enable acts
independently (44_latch_update R230). -/
inductive Group where
  | sequencer | memory | aluOp | operandA | operandB | shifter | offset | offsetShift | base | marSource | busDriver | pcLoad
  | marLoad | irLoad | mdrLoad | ccLoad | benLoad | regLoad
deriving DecidableEq, Repr

/-- The group of a row (30_encoding R96). -/
def Instr.group : Instr → Group
  | .seqDispatch | .seqNext _ | .seqMemwait _ | .seqBranch _ | .seqAddrmode _ => .sequencer
  | .memIdle | .memRdB | .memRdW | .memWrB | .memWrW => .memory
  | .aluAdd | .aluAnd | .aluXor | .aluPassa => .aluOp
  | .sr1Ir11_9 | .sr1Ir8_6 => .operandA
  | .opbReg _ | .opbImm5 _ => .operandB
  | .shfLshf _ _ | .shfRshfl _ _ | .shfReserved | .shfRshfa _ _ => .shifter
  | .addr2Zero | .addr2Off6 | .addr2Off9 | .addr2Off11 => .offset
  | .lshf1Off | .lshf1On => .offsetShift
  | .addr1Pc | .addr1Baser => .base
  | .marmuxVect8 | .marmuxAdder => .marSource
  | .busNone | .gatePc | .gateMdr | .gateAlu | .gateMarmux | .gateShf => .busDriver
  | .pcHold | .pcInc2 | .pcBus | .pcAdder | .pcReserved => .pcLoad
  | .ldMar => .marLoad
  | .ldIr => .irLoad
  | .ldMdrBus | .ldMdrMem => .mdrLoad
  | .ldCc => .ccLoad
  | .ldBen => .benLoad
  | .ldRegIr | .ldRegR7 => .regLoad

/-- What a control word (with IR) selects: one row of each group that always has one, and a row or none of the others. -/
structure Microinstruction where
  seq : Instr
  mem : Instr
  opA : Instr
  opB : Option Instr
  alu : Instr
  shf : Option Instr
  off : Instr
  offShift : Instr
  base : Instr
  marSrc : Instr
  bus : Instr
  pc : Instr
  ldMar : Option Instr
  ldIr : Option Instr
  ldMdr : Option Instr
  ldCc : Option Instr
  ldBen : Option Instr
  ldReg : Option Instr
deriving DecidableEq, Repr

/-- The rows in the order in which a cycle's data flow through them: sequencer, memory unit, functional units, bus arbiter,
latch update (45_cycle R250). The PC load stands first among the loads, so that the first error met is the one of lowest
code (60_exceptions R275, D10 "the order follows the datapath"). -/
def Microinstruction.ops (m : Microinstruction) : List Instr :=
  [m.seq, m.mem, m.opA] ++ m.opB.toList ++ [m.alu] ++ m.shf.toList
    ++ [m.off, m.offShift, m.base, m.marSrc, m.bus, m.pc]
    ++ m.ldMar.toList ++ m.ldIr.toList ++ m.ldMdr.toList ++ m.ldCc.toList ++ m.ldBen.toList ++ m.ldReg.toList

/-- The slot is empty or holds a row of group `g`. -/
def slotOk (g : Group) : Option Instr → Bool
  | none => true
  | some i => i.group == g

/-- A selection is well-formed when every slot holds a row of its own group, ALU operand B is selected exactly under
GATE_ALU and a shifter row exactly under GATE_SHF (30_encoding R96: a row of format IR "applies when the control word also
selects the unit"), and the MDR load is the one that MIO_EN selects (44_latch_update R224, R225). -/
def Microinstruction.wellFormed (m : Microinstruction) : Bool :=
  m.seq.group == .sequencer && m.mem.group == .memory && m.opA.group == .operandA && m.alu.group == .aluOp
    && m.off.group == .offset && m.offShift.group == .offsetShift && m.base.group == .base && m.marSrc.group == .marSource
    && m.bus.group == .busDriver && m.pc.group == .pcLoad
    && slotOk .operandB m.opB && slotOk .shifter m.shf && slotOk .marLoad m.ldMar && slotOk .irLoad m.ldIr
    && slotOk .mdrLoad m.ldMdr && slotOk .ccLoad m.ldCc && slotOk .benLoad m.ldBen && slotOk .regLoad m.ldReg
    && (m.opB.isSome == (m.bus == .gateAlu)) && (m.shf.isSome == (m.bus == .gateShf))
    && (m.ldMdr != some .ldMdrBus || m.mem == .memIdle) && (m.ldMdr != some .ldMdrMem || m.mem != .memIdle)

end Sys2Proof
end

