-- ==== Sys2Proof/Decode.lean ====
section
/-! DEFINITION. Decoding: the packing of a control word into 35 bits (spec 30_encoding R91), the slices of IR (R93, R94), the
micro-operations a control word and IR select (R92, R96, R97), the rows of opcode_table.json as masks, and the encoder. -/

namespace Sys2Proof

/-! ### The packing of 30_encoding R91 -/

/-- The record read from 35 bits: each field at the integer bits of the table of 30_encoding R91. -/
def ControlWord.ofBits (w : BitVec 35) : ControlWord :=
  { ird := w.getLsbD 34
    cond := w.extractLsb' 32 2
    j := w.extractLsb' 26 6
    ldMar := w.getLsbD 25
    ldMdr := w.getLsbD 24
    ldIr := w.getLsbD 23
    ldBen := w.getLsbD 22
    ldReg := w.getLsbD 21
    ldCc := w.getLsbD 20
    ldPc := w.getLsbD 19
    gatePc := w.getLsbD 18
    gateMdr := w.getLsbD 17
    gateAlu := w.getLsbD 16
    gateMarmux := w.getLsbD 15
    gateShf := w.getLsbD 14
    pcMux := w.extractLsb' 12 2
    drMux := w.getLsbD 11
    sr1Mux := w.getLsbD 10
    addr1Mux := w.getLsbD 9
    addr2Mux := w.extractLsb' 7 2
    marMux := w.getLsbD 6
    aluK := w.extractLsb' 4 2
    mioEn := w.getLsbD 3
    rW := w.getLsbD 2
    dataSize := w.getLsbD 1
    lshf1 := w.getLsbD 0 }

/-- The 35-bit integer of a control word: its fields in the order of 30_encoding R90, the first the most significant (R91). -/
def ControlWord.toBits (c : ControlWord) : BitVec 35 :=
  BitVec.ofBool c.ird ++ c.cond ++ c.j
    ++ BitVec.ofBool c.ldMar ++ BitVec.ofBool c.ldMdr ++ BitVec.ofBool c.ldIr ++ BitVec.ofBool c.ldBen
    ++ BitVec.ofBool c.ldReg ++ BitVec.ofBool c.ldCc ++ BitVec.ofBool c.ldPc
    ++ BitVec.ofBool c.gatePc ++ BitVec.ofBool c.gateMdr ++ BitVec.ofBool c.gateAlu ++ BitVec.ofBool c.gateMarmux
    ++ BitVec.ofBool c.gateShf
    ++ c.pcMux ++ BitVec.ofBool c.drMux ++ BitVec.ofBool c.sr1Mux ++ BitVec.ofBool c.addr1Mux ++ c.addr2Mux
    ++ BitVec.ofBool c.marMux ++ c.aluK ++ BitVec.ofBool c.mioEn ++ BitVec.ofBool c.rW ++ BitVec.ofBool c.dataSize
    ++ BitVec.ofBool c.lshf1

/-- Why the decoder refuses. Every 35-bit string is a control word (30_encoding R97); what is refused is a number that does
not fit, and a word that matches no row of the bus-driver group. -/
inductive DecodeRejection where
  /-- a number of 36 bits or more is no control word (30_encoding R98: "Every control word is 35 bits") -/
  | wider
  /-- two or more `GATE_*` bits: "matches no row of the bus-driver group" (30_encoding R96, R97) -/
  | multipleBusDrivers
deriving DecidableEq, Repr

/-- The control word of a number, bit 0 the least significant (30_encoding R91). -/
def decodeControlWord (w : Nat) : Except DecodeRejection ControlWord :=
  if w < 2 ^ 35 then .ok (ControlWord.ofBits (BitVec.ofNat 35 w)) else .error .wider

/-! ### The slices of IR, 30_encoding R93 -/

/-- `IR[15:12]` -/
def irOpcode (ir : Word) : BitVec 4 := ir.extractLsb' 12 4
/-- `IR[11:9]`: destination register, ALU operand A under SR1MUX = 0 -/
def irDr (ir : Word) : RegIdx := ir.extractLsb' 9 3
/-- `IR[8:6]`: ALU operand A under SR1MUX = 1, shifter source, adder base -/
def irBase (ir : Word) : RegIdx := ir.extractLsb' 6 3
/-- `IR[2:0]`: ALU operand B register -/
def irSr2 (ir : Word) : RegIdx := ir.extractLsb' 0 3
/-- `IR[5]`: operand-B select, 1 the immediate (D2) -/
def irImmSelect (ir : Word) : Bool := ir.getLsbD 5
/-- `IR[4:0]` -/
def irImm5 (ir : Word) : BitVec 5 := ir.extractLsb' 0 5
/-- `IR[5:4]`: the shifter mode, bit 5 the high bit -/
def irShiftMode (ir : Word) : BitVec 2 := ir.extractLsb' 4 2
/-- `IR[3:0]`: the shift amount -/
def irAmount (ir : Word) : BitVec 4 := ir.extractLsb' 0 4
/-- `IR[5:0]` -/
def irOffset6 (ir : Word) : BitVec 6 := ir.extractLsb' 0 6
/-- `IR[8:0]` -/
def irOffset9 (ir : Word) : BitVec 9 := ir.extractLsb' 0 9
/-- `IR[10:0]` -/
def irOffset11 (ir : Word) : BitVec 11 := ir.extractLsb' 0 11
/-- `IR[7:0]`, the "low byte of the instruction" -/
def irLowByte (ir : Word) : BitVec 8 := ir.extractLsb' 0 8

/-! ### The rows a control word and IR select, 30_encoding R92 and R96 -/

/-- The sequencer row: `IRD`, then `COND` (30_encoding R92; 40_sequencer R132 to R136). -/
def seqOp (c : ControlWord) : Instr :=
  if c.ird then .seqDispatch
  else if c.cond = 0 then .seqNext c.j
  else if c.cond = 1 then .seqMemwait c.j
  else if c.cond = 2 then .seqBranch c.j
  else .seqAddrmode c.j

/-- The memory row: `MIO_EN`, `R_W`, `DATA_SIZE`. -/
def memOp (c : ControlWord) : Instr :=
  if c.mioEn then
    if c.rW then (if c.dataSize then .memWrW else .memWrB) else (if c.dataSize then .memRdW else .memRdB)
  else .memIdle

/-- The ALU-operation row: `ALUK`. -/
def aluOp (c : ControlWord) : Instr :=
  if c.aluK = 0 then .aluAdd else if c.aluK = 1 then .aluAnd else if c.aluK = 2 then .aluXor else .aluPassa

/-- The operand-A row: `SR1MUX`. -/
def opAOp (c : ControlWord) : Instr := if c.sr1Mux then .sr1Ir8_6 else .sr1Ir11_9

/-- The operand-B row of an IR: `IR[5]` (42_datapath_units R171). -/
def opBOp (ir : Word) : Instr := if irImmSelect ir then .opbImm5 (irImm5 ir) else .opbReg (irSr2 ir)

/-- The shifter row of an IR: `IR[5:4]` (42_datapath_units R176 to R180). -/
def shfOp (ir : Word) : Instr :=
  if irShiftMode ir = 0 then .shfLshf (irBase ir) (irAmount ir)
  else if irShiftMode ir = 1 then .shfRshfl (irBase ir) (irAmount ir)
  else if irShiftMode ir = 2 then .shfReserved
  else .shfRshfa (irBase ir) (irAmount ir)

/-- The adder-offset row: `ADDR2MUX`. -/
def offOp (c : ControlWord) : Instr :=
  if c.addr2Mux = 0 then .addr2Zero else if c.addr2Mux = 1 then .addr2Off6
  else if c.addr2Mux = 2 then .addr2Off9 else .addr2Off11

/-- The offset-shift row: `LSHF1`. -/
def offShiftOp (c : ControlWord) : Instr := if c.lshf1 then .lshf1On else .lshf1Off

/-- The adder-base row: `ADDR1MUX`. -/
def baseOp (c : ControlWord) : Instr := if c.addr1Mux then .addr1Baser else .addr1Pc

/-- The MAR-source row: `MARMUX`. -/
def marSrcOp (c : ControlWord) : Instr := if c.marMux then .marmuxAdder else .marmuxVect8

/-- The bus-driver row: the five `GATE_*` fields; two or more set match none (30_encoding R96). -/
def busOp (c : ControlWord) : Option Instr :=
  match c.gatePc, c.gateMdr, c.gateAlu, c.gateMarmux, c.gateShf with
  | false, false, false, false, false => some .busNone
  | true, false, false, false, false => some .gatePc
  | false, true, false, false, false => some .gateMdr
  | false, false, true, false, false => some .gateAlu
  | false, false, false, true, false => some .gateMarmux
  | false, false, false, false, true => some .gateShf
  | _, _, _, _, _ => none

/-- The PC-load row: `LD_PC`, then `PCMUX`. -/
def pcOp (c : ControlWord) : Instr :=
  if c.ldPc then
    if c.pcMux = 0 then .pcInc2 else if c.pcMux = 1 then .pcBus else if c.pcMux = 2 then .pcAdder else .pcReserved
  else .pcHold

/-- The row `i` where its load-enable is set, else none. -/
def loadOp (enable : Bool) (i : Instr) : Option Instr := if enable then some i else none

/-- The micro-operations that a control word selects, with IR for the rows of format IR: operand B only under GATE_ALU, the
shifter only under GATE_SHF (30_encoding R96). Total; refuses, by name, exactly a word with two or more gates. -/
def select (c : ControlWord) (ir : Word) : Except DecodeRejection Microinstruction :=
  match busOp c with
  | none => .error .multipleBusDrivers
  | some bus => .ok
    { seq := seqOp c
      mem := memOp c
      opA := opAOp c
      opB := loadOp c.gateAlu (opBOp ir)
      alu := aluOp c
      shf := loadOp c.gateShf (shfOp ir)
      off := offOp c
      offShift := offShiftOp c
      base := baseOp c
      marSrc := marSrcOp c
      bus := bus
      pc := pcOp c
      ldMar := loadOp c.ldMar .ldMar
      ldIr := loadOp c.ldIr .ldIr
      ldMdr := loadOp c.ldMdr (if c.mioEn then .ldMdrMem else .ldMdrBus)
      ldCc := loadOp c.ldCc .ldCc
      ldBen := loadOp c.ldBen .ldBen
      ldReg := loadOp c.ldReg (if c.drMux then .ldRegR7 else .ldRegIr) }

/-! ### The rows of opcode_table.json as masks (30_encoding R96) -/

/-- A row's test: over the 35-bit control word or, for a row of format IR, over IR. -/
structure TableRow where
  ofIr : Bool
  pattern : Nat
  mask : Nat
deriving DecidableEq, Repr

/-- The `match` and `mask` of a micro-operation's row in opcode_table.json. -/
def Instr.row : Instr → TableRow
  | .seqDispatch => ⟨false, 0x400000000, 0x400000000⟩
  | .seqNext _ => ⟨false, 0x000000000, 0x700000000⟩
  | .seqMemwait _ => ⟨false, 0x100000000, 0x700000000⟩
  | .seqBranch _ => ⟨false, 0x200000000, 0x700000000⟩
  | .seqAddrmode _ => ⟨false, 0x300000000, 0x700000000⟩
  | .memIdle => ⟨false, 0x000000000, 0x000000008⟩
  | .memRdB => ⟨false, 0x000000008, 0x00000000E⟩
  | .memRdW => ⟨false, 0x00000000A, 0x00000000E⟩
  | .memWrB => ⟨false, 0x00000000C, 0x00000000E⟩
  | .memWrW => ⟨false, 0x00000000E, 0x00000000E⟩
  | .aluAdd => ⟨false, 0x000000000, 0x000000030⟩
  | .aluAnd => ⟨false, 0x000000010, 0x000000030⟩
  | .aluXor => ⟨false, 0x000000020, 0x000000030⟩
  | .aluPassa => ⟨false, 0x000000030, 0x000000030⟩
  | .sr1Ir11_9 => ⟨false, 0x000000000, 0x000000400⟩
  | .sr1Ir8_6 => ⟨false, 0x000000400, 0x000000400⟩
  | .opbReg _ => ⟨true, 0x0000, 0x0020⟩
  | .opbImm5 _ => ⟨true, 0x0020, 0x0020⟩
  | .shfLshf _ _ => ⟨true, 0x0000, 0x0030⟩
  | .shfRshfl _ _ => ⟨true, 0x0010, 0x0030⟩
  | .shfReserved => ⟨true, 0x0020, 0x0030⟩
  | .shfRshfa _ _ => ⟨true, 0x0030, 0x0030⟩
  | .addr2Zero => ⟨false, 0x000000000, 0x000000180⟩
  | .addr2Off6 => ⟨false, 0x000000080, 0x000000180⟩
  | .addr2Off9 => ⟨false, 0x000000100, 0x000000180⟩
  | .addr2Off11 => ⟨false, 0x000000180, 0x000000180⟩
  | .lshf1Off => ⟨false, 0x000000000, 0x000000001⟩
  | .lshf1On => ⟨false, 0x000000001, 0x000000001⟩
  | .addr1Pc => ⟨false, 0x000000000, 0x000000200⟩
  | .addr1Baser => ⟨false, 0x000000200, 0x000000200⟩
  | .marmuxVect8 => ⟨false, 0x000000000, 0x000000040⟩
  | .marmuxAdder => ⟨false, 0x000000040, 0x000000040⟩
  | .busNone => ⟨false, 0x000000000, 0x00007C000⟩
  | .gatePc => ⟨false, 0x000040000, 0x00007C000⟩
  | .gateMdr => ⟨false, 0x000020000, 0x00007C000⟩
  | .gateAlu => ⟨false, 0x000010000, 0x00007C000⟩
  | .gateMarmux => ⟨false, 0x000008000, 0x00007C000⟩
  | .gateShf => ⟨false, 0x000004000, 0x00007C000⟩
  | .pcHold => ⟨false, 0x000000000, 0x000080000⟩
  | .pcInc2 => ⟨false, 0x000080000, 0x000083000⟩
  | .pcBus => ⟨false, 0x000081000, 0x000083000⟩
  | .pcAdder => ⟨false, 0x000082000, 0x000083000⟩
  | .pcReserved => ⟨false, 0x000083000, 0x000083000⟩
  | .ldMar => ⟨false, 0x002000000, 0x002000000⟩
  | .ldIr => ⟨false, 0x000800000, 0x000800000⟩
  | .ldMdrBus => ⟨false, 0x001000000, 0x001000008⟩
  | .ldMdrMem => ⟨false, 0x001000008, 0x001000008⟩
  | .ldCc => ⟨false, 0x000100000, 0x000100000⟩
  | .ldBen => ⟨false, 0x000400000, 0x000400000⟩
  | .ldRegIr => ⟨false, 0x000200000, 0x000200800⟩
  | .ldRegR7 => ⟨false, 0x000200800, 0x000200800⟩

/-- The row applies: "`c & mask = match`" over the control word, or over IR (30_encoding R96). -/
def TableRow.applies (r : TableRow) (c : ControlWord) (ir : Word) : Bool :=
  (if r.ofIr then ir.toNat else c.toBits.toNat) &&& r.mask == r.pattern

/-- The gate that a row of format IR requires (opcode_table.json, `requires`); nothing for a row of format CW. -/
def Instr.requirement (i : Instr) (c : ControlWord) : Bool :=
  match i.group with
  | .operandB => c.gateAlu
  | .shifter => c.gateShf
  | _ => true

/-! ### The encoder -/

/-- The control word and IR of a selection: each slot sets the fields of its group (30_encoding R92), everything else is 0.
A row of format IR sets its bits of IR. -/
def encode (m : Microinstruction) : ControlWord × Word :=
  ( { ird := m.seq == .seqDispatch
      cond := match m.seq with
        | .seqMemwait _ => 1
        | .seqBranch _ => 2
        | .seqAddrmode _ => 3
        | _ => 0
      j := match m.seq with
        | .seqNext j | .seqMemwait j | .seqBranch j | .seqAddrmode j => j
        | _ => 0
      ldMar := m.ldMar.isSome
      ldMdr := m.ldMdr.isSome
      ldIr := m.ldIr.isSome
      ldBen := m.ldBen.isSome
      ldReg := m.ldReg.isSome
      ldCc := m.ldCc.isSome
      ldPc := m.pc != .pcHold
      gatePc := m.bus == .gatePc
      gateMdr := m.bus == .gateMdr
      gateAlu := m.bus == .gateAlu
      gateMarmux := m.bus == .gateMarmux
      gateShf := m.bus == .gateShf
      pcMux := match m.pc with
        | .pcBus => 1
        | .pcAdder => 2
        | .pcReserved => 3
        | _ => 0
      drMux := m.ldReg == some .ldRegR7
      sr1Mux := m.opA == .sr1Ir8_6
      addr1Mux := m.base == .addr1Baser
      addr2Mux := match m.off with
        | .addr2Off6 => 1
        | .addr2Off9 => 2
        | .addr2Off11 => 3
        | _ => 0
      marMux := m.marSrc == .marmuxAdder
      aluK := match m.alu with
        | .aluAnd => 1
        | .aluXor => 2
        | .aluPassa => 3
        | _ => 0
      mioEn := m.mem != .memIdle
      rW := m.mem == .memWrB || m.mem == .memWrW
      dataSize := m.mem == .memRdW || m.mem == .memWrW
      lshf1 := m.offShift == .lshf1On },
    match m.opB, m.shf with
    | some (.opbReg r), _ => r.setWidth 16
    | some (.opbImm5 v), _ => 0x0020 ||| v.setWidth 16
    | _, some (.shfLshf r a) => (r.setWidth 16 <<< 6) ||| a.setWidth 16
    | _, some (.shfRshfl r a) => 0x0010 ||| (r.setWidth 16 <<< 6) ||| a.setWidth 16
    | _, some .shfReserved => 0x0020
    | _, some (.shfRshfa r a) => 0x0030 ||| (r.setWidth 16 <<< 6) ||| a.setWidth 16
    | _, _ => 0 )

/-- What the all-zero control word selects (30_encoding R92, code 0 of every field; 95_test_vectors L16). -/
def Microinstruction.idle : Microinstruction :=
  { seq := .seqNext 0, mem := .memIdle, opA := .sr1Ir11_9, opB := none, alu := .aluAdd, shf := none, off := .addr2Zero,
    offShift := .lshf1Off, base := .addr1Pc, marSrc := .marmuxVect8, bus := .busNone, pc := .pcHold, ldMar := none,
    ldIr := none, ldMdr := none, ldCc := none, ldBen := none, ldReg := none }

/-- The all-zero selection with one row put in its slot, and with what that row needs beside it: the gate of a row of format
IR, a row of format IR under its gate, an asserted MIO_EN for LD.MDR.MEM. -/
def Instr.alone (i : Instr) : Microinstruction :=
  let z := Microinstruction.idle
  match i.group with
  | .sequencer => { z with seq := i }
  | .memory => { z with mem := i }
  | .aluOp => { z with alu := i }
  | .operandA => { z with opA := i }
  | .operandB => { z with opB := some i, bus := .gateAlu }
  | .shifter => { z with shf := some i, bus := .gateShf }
  | .offset => { z with off := i }
  | .offsetShift => { z with offShift := i }
  | .base => { z with base := i }
  | .marSource => { z with marSrc := i }
  | .busDriver => { z with
      bus := i
      opB := loadOp (i == .gateAlu) (.opbReg 0)
      shf := loadOp (i == .gateShf) (.shfLshf 0 0) }
  | .pcLoad => { z with pc := i }
  | .marLoad => { z with ldMar := some i }
  | .irLoad => { z with ldIr := some i }
  | .mdrLoad => { z with ldMdr := some i, mem := if i == .ldMdrMem then .memRdB else .memIdle }
  | .ccLoad => { z with ldCc := some i }
  | .benLoad => { z with ldBen := some i }
  | .regLoad => { z with ldReg := some i }

/-! ### One word of the table, for the host -/

/-- The row a control word names: a word selects a row of every group, so the one meant is the last in the order of a cycle
that the all-zero word does not select, and the sequencer row if there is none (DESIGN CHOICE, log 16). -/
def namedRow (m : Microinstruction) : Instr :=
  ((m.ops.filter fun i => !Microinstruction.idle.ops.contains i).getLast?).getD m.seq

/-- The micro-operation read from a word numbered as opcode_table.json numbers it: 16 bits are IR, read as the shifter under
GATE_SHF reads it; any other width is a control word, whose bits above 35 must be 0 (DESIGN CHOICE, log 16). -/
def decodeTableWord (nbits w : Nat) : Option Instr :=
  if nbits = 16 then
    if w < 2 ^ 16 then some (shfOp (BitVec.ofNat 16 w)) else none
  else
    match decodeControlWord w with
    | .error _ => none
    | .ok c =>
      match select c 0 with
      | .error _ => none
      | .ok m => some (namedRow m)

end Sys2Proof
end

