-- ==== Sys2Proof/Config.lean ====
section
/-! DEFINITION. The parameters of the hardware (spec 00_scope R5): what is fixed for the life of a run and not set by the spec. -/

namespace Sys2Proof

/-- The OPEN parameters of 00_scope R5. The step reads `controlStore` and `haltPc`; the other three are read at reset only
(10_state R34, R41). Plain data, so that a statement can speak of every value of them. -/
structure Params where
  /-- `CONTROL_STORE`: 64 control words, read-only during a run (40_sequencer R130) -/
  controlStore : Vector ControlWord 64
  /-- `INITIAL_STATE` -/
  initialState : StateIdx
  /-- `HALT_PC`, the sentinel -/
  haltPc : Word
  /-- `RESET_PC` -/
  resetPc : Word
  /-- `MEM_IMAGE`: the (byte address, word) pairs the program loader places, in order (20_memory R76); all else is zero -/
  memImage : List (Word × Word)
deriving DecidableEq, Repr

/-- The parameters of `State.reset`. INITIAL_STATE and HALT_PC have the spec's defaults (00_scope R5, D15, D16). DESIGN CHOICE
(log 7, 10, 11; unsafe): no control store is loaded (all rows the all-zero word), no image is placed, PC starts at 0x3000,
the value the spec's vectors use (95_test_vectors section 2). -/
def Params.default : Params :=
  { controlStore := Vector.replicate 64 ControlWord.zero
    initialState := 18
    haltPc := 0x0000
    resetPc := 0x3000
    memImage := [] }

end Sys2Proof
end

