-- ==== Sys2Proof/Machine/Memory.lean ====
section
/-! DEFINITION. The memory array: 65536 bytes as a canonical sparse list, and the four access primitives (spec 20_memory). -/

namespace Sys2Proof.Machine

open Sys2Proof

/-- The memory: (byte address, byte) pairs, addresses strictly rising, no byte 0 listed; an address not listed reads 0, as
10_state R32 says of every byte the loader did not fill ("memory zeroed"). -/
abbrev Memory := List Host.Cell

/-- The number of byte addresses: 32768 words of two bytes (00_scope R5, 20_memory R60). -/
def memBytes : Nat := 65536

/-- The byte at a byte address (20_memory R61, `BYTES[A]`). -/
def Memory.byteAt : Memory → Nat → Byte
  | [], _ => 0
  | (a, v) :: rest, k => if k = a then v else Memory.byteAt rest k

/-- Store one byte, keeping the canonical form: writing 0 removes the entry. -/
def Memory.setByte : Memory → Nat → Byte → Memory
  | [], k, v => if v = 0 then [] else [(k, v)]
  | (a, b) :: rest, k, v =>
    if k < a then (if v = 0 then (a, b) :: rest else (k, v) :: (a, b) :: rest)
    else if k = a then (if v = 0 then rest else (k, v) :: rest)
    else (a, b) :: Memory.setByte rest k v

/-- The canonical form from address `lo` up. -/
def Memory.wfFrom : Nat → Memory → Bool
  | _, [] => true
  | lo, (a, v) :: rest => decide (lo ≤ a) && decide (a < memBytes) && decide (v ≠ 0) && Memory.wfFrom (a + 1) rest

/-- The canonical form: strictly rising addresses below 65536, no byte that an unlisted address reads as. -/
def Memory.wf (m : Memory) : Bool := Memory.wfFrom 0 m

/-- The byte address of a lane of the word that contains `a`: word index `A[15:1]`, lane 0 low, lane 1 high
(20_memory R60 to R62, D5). -/
def laneAddr (a : Word) (high : Bool) : Nat := 2 * (a.extractLsb' 1 15).toNat + high.toNat

/-- `MemRead(A, 2)`: both lanes of the word, `A[0]` not used (20_memory R64, R68). -/
def Memory.readWord (m : Memory) (a : Word) : Word := m.byteAt (laneAddr a true) ++ m.byteAt (laneAddr a false)

/-- `MemRead(A, 1)`: the lane `A[0]` selects, sign-extended (20_memory R65). -/
def Memory.readByte (m : Memory) (a : Word) : Word := (m.byteAt (laneAddr a (a.getLsbD 0))).signExtend 16

/-- `MemWrite(A, 2, v)`: both lanes, `A[0]` not used (20_memory R66, R68). -/
def Memory.writeWord (m : Memory) (a v : Word) : Memory :=
  (m.setByte (laneAddr a false) (v.extractLsb' 0 8)).setByte (laneAddr a true) (v.extractLsb' 8 8)

/-- `MemWrite(A, 1, v)`: the low byte of `v` into the lane `A[0]` selects (20_memory R67). -/
def Memory.writeByte (m : Memory) (a v : Word) : Memory := m.setByte (laneAddr a (a.getLsbD 0)) (v.extractLsb' 0 8)

/-- The memory at reset: zero, then the image's words placed in order by `MemWrite(·, 2, ·)` (20_memory R76, 10_state R41). -/
def Memory.ofImage (image : List (Word × Word)) : Memory :=
  image.foldl (fun m p => m.writeWord p.1 p.2) []

end Sys2Proof.Machine
end

