-- ==== Sys2Proof/Machine/State.lean ====
section
/-! DEFINITION. The state of the CORE (spec 10_state), the reasons to stop, and the state after reset. -/

namespace Sys2Proof.Machine

open Sys2Proof

/-- The four defined errors of 60_exceptions R270, in the order of their codes 1 to 4. They are the contents of `FAULT`, and
the reason of a step taken while one is recorded (45_cycle R252). No meaning of an instruction answers with a fault. -/
inductive Fault where
  /-- code 1: two or more gates (60_exceptions R271). Recorded by the cycle whose control word the decoder refuses; a later
  step stops with it. Safe: the spec defines no transition from there. -/
  | multipleBusDrivers
  /-- code 2: the reserved shifter mode is gated (60_exceptions R272). Recorded by SHF.RESERVED and GATE.SHF. Safe. -/
  | shifterReservedMode
  /-- code 3: PCMUX = 3 with LD_PC = 1 (60_exceptions R273). Recorded by PC.RESERVED. Safe. -/
  | pcMuxReserved
  /-- code 4: a bus consumer and no driver (60_exceptions R274). Recorded by the consumers of the bus. Safe. -/
  | busUndriven
deriving DecidableEq, Repr

/-- The error's code (60_exceptions R270). -/
def Fault.code : Fault → Nat
  | .multipleBusDrivers => 1
  | .shifterReservedMode => 2
  | .pcMuxReserved => 3
  | .busUndriven => 4

/-- Refusals. No meaning of this model refuses. -/
inductive Refusal where
  /-- an instruction without a meaning; raised by no arm of `exec`. Safe. -/
  | notModelled (mnemonic : String)
deriving DecidableEq, Repr

/-- A store that the memory unit performs when this cycle commits (41_memory_timing R155, R156; 44_latch_update R233). -/
structure Store where
  addr : Word
  /-- a word (DATA_SIZE = 1) or a byte -/
  wide : Bool
  data : Word
deriving DecidableEq, Repr

/-- The transient of ONE cycle (the model's own field, log 2; not state in the spec, 10_state R31, R35): what the units have
put out and what the latches will take when the cycle commits. `none` is "not computed" for a unit, "undriven" for the bus,
"carried over" for a latch. -/
structure Inflight where
  /-- the sequencer's `ns` (40_sequencer R131) -/
  ns : Option StateIdx
  /-- next MEMCNT and READY (41_memory_timing R151, R152) -/
  memCnt : Option (BitVec 3)
  ready : Option Bool
  /-- the pending read result (10_state R31) -/
  readResult : Option Word
  store : Option Store
  /-- ALU operands and output (42_datapath_units R170 to R175) -/
  opA : Option Word
  opB : Option Word
  alu : Option Word
  /-- shifter output (R177 to R180) -/
  shf : Option Word
  /-- adder offset, shifted offset, base (R181 to R183) -/
  off : Option Word
  op1 : Option Word
  op2 : Option Word
  /-- MAR-source mux output (R185) -/
  marmuxOut : Option Word
  /-- the bus (43_bus_arbiter R210) -/
  bus : Option Word
  /-- the loads of 44_latch_update R221 to R228 -/
  pc : Option Word
  ir : Option Word
  mar : Option Word
  mdr : Option Word
  /-- N, Z, P -/
  flags : Option (Bool × Bool × Bool)
  ben : Option Bool
  reg : Option (RegIdx × Word)
deriving DecidableEq, Repr

/-- Nothing computed, nothing pending: the transient between two cycles. -/
def Inflight.idle : Inflight :=
  { ns := none, memCnt := none, ready := none, readResult := none, store := none, opA := none, opB := none, alu := none,
    shf := none, off := none, op1 := none, op2 := none, marmuxOut := none, bus := none, pc := none, ir := none, mar := none,
    mdr := none, flags := none, ben := none, reg := none }

/-- The state. Its latches are the current snapshot `cur` of 10_state R40; the next snapshot is built in `cycle` and takes
its place when the cycle commits. -/
structure State where
  /-- 10_state R20 -/
  pc : Word
  /-- 10_state R21 -/
  ir : Word
  /-- 10_state R22 -/
  mar : Word
  /-- 10_state R23 -/
  mdr : Word
  /-- the flags, 10_state R24 -/
  n : Bool
  z : Bool
  p : Bool
  /-- 10_state R25 -/
  ben : Bool
  /-- 10_state R26 -/
  ready : Bool
  /-- 10_state R27 -/
  regs : Vector Word 8
  /-- `STATE`, 10_state R28 -/
  stateIdx : StateIdx
  /-- `CW`, 10_state R29 -/
  cw : ControlWord
  /-- `MEMCNT`, 10_state R30 -/
  memCnt : BitVec 3
  /-- `MEM`, 10_state R32 -/
  mem : Memory
  /-- `FAULT`, 10_state R33 -/
  fault : Option Fault
  /-- the bus value of the last executed cycle, `none` for undriven (10_state R35, R43, D26) -/
  lastBus : Option Word
  /-- the parameters of the step function (10_state R34), never changed by a step (log 6) -/
  params : Params
  /-- the transient of a cycle, idle between cycles (log 2) -/
  cycle : Inflight
deriving DecidableEq, Repr

/-- The state after reset: 10_state R41 with the parameters `Params.default` and no image. The parameters' values are
DESIGN CHOICES (log 7 to 11), as is the undriven `lastBus` (log 13); the zeros and Z = 1 are the spec's decision D14 (log 12). -/
def State.reset : State :=
  { pc := Params.default.resetPc
    ir := 0, mar := 0, mdr := 0
    n := false, z := true, p := false
    ben := false, ready := false
    regs := Vector.replicate 8 0
    stateIdx := Params.default.initialState
    cw := Params.default.controlStore[Params.default.initialState.toNat]'Params.default.initialState.isLt
    memCnt := 0
    mem := []
    fault := none
    lastBus := none
    params := Params.default
    cycle := .idle }

end Sys2Proof.Machine
end

