-- ==== Sys2Proof/Machine/Ops.lean ====
section
/-! DEFINITION. The shared operations: reading registers and the control store, writing the transient of a cycle, taking a
defined error, reading the bus, the memory unit's tick, and the commit of a cycle. -/

namespace Sys2Proof.Machine

open Sys2Proof

/-- The outcome of an instruction or a step of this machine. -/
abbrev Result := Host.Outcome State Fault Refusal

/-- `CS(i)` (40_sequencer R130). -/
def controlStoreAt (p : Params) (i : StateIdx) : ControlWord := p.controlStore[i.toNat]'i.isLt

/-- `REGS[i]` of the current snapshot (00_scope R7, 42_datapath_units R190). -/
def State.reg (s : State) (i : RegIdx) : Word := s.regs[i.toNat]'i.isLt

/-- The general registers after `REGS[d] <- v` (44_latch_update R228). -/
def setReg (regs : Vector Word 8) (d : RegIdx) (v : Word) : Vector Word 8 := regs.set d.toNat v d.isLt

/-- Write the transient of this cycle; the current snapshot stays frozen (10_state R40). -/
def State.inFlight (s : State) (f : Inflight → Inflight) : State := { s with cycle := f s.cycle }

/-- The start of a cycle: the snapshot with an idle transient; whatever a cycle was doing is no part of a state between cycles
(45_cycle R255). -/
def State.openCycle (s : State) : State := { s with cycle := .idle }

/-- Taking a defined error: the cycle commits nothing, only FAULT records the error, and an error already recorded stays
(60_exceptions R276, R277). There is no return from it (R280). DESIGN CHOICE (log 26): the bus value that the dump reports stays
that of the last cycle that committed; the spec gives an erring cycle none (45_cycle R251). -/
def State.raise (s : State) (e : Fault) : State := { s with fault := s.fault.or (some e), cycle := .idle }

/-- A consumer of the bus: it takes the bus value, and an undriven bus is the error `BusUndriven` (43_bus_arbiter R213, R214). -/
def withBus (s : State) (f : Word → Inflight → Inflight) : Result :=
  match s.cycle.bus with
  | none => .next (s.raise .busUndriven)
  | some v => .next (s.inFlight (f v))

/-- `ADDER`, the sum of the shifted offset and the base, wrapping at 16 bits (42_datapath_units R184). -/
def Inflight.adder (c : Inflight) : Option Word :=
  match c.op1, c.op2 with
  | some a, some b => some (a + b)
  | _, _ => none

/-- `t`, the number of this cycle's tick (41_memory_timing R151). -/
def State.tick (s : State) : Nat := s.memCnt.toNat + 1

/-- One tick of an access: the counter and READY of 41_memory_timing R151 and R152 and, on the 5th tick only, the access `f`. -/
def memTick (s : State) (f : Inflight → Inflight) : Result :=
  .next (s.inFlight fun c =>
    let counted : Inflight :=
      { c with
        memCnt := some (if s.tick = 5 then 0 else BitVec.ofNat 3 s.tick)
        ready := some (decide (s.tick = 4)) }
    if s.tick = 5 then f counted else counted)

/-- The memory after the pending store, if there is one (20_memory R66, R67). -/
def applyStore (m : Memory) : Option Store → Memory
  | none => m
  | some st => if st.wide then m.writeWord st.addr st.data else m.writeByte st.addr st.data

/-- The end of a cycle: the next snapshot replaces the current one, every latch nothing was assigned to keeps its value
(10_state R40, 44_latch_update R220, R233), STATE and CW move together (40_sequencer R137), and the bus value is kept for the
dump (10_state R43). -/
def State.commit (s : State) : State :=
  { pc := s.cycle.pc.getD s.pc
    ir := s.cycle.ir.getD s.ir
    mar := s.cycle.mar.getD s.mar
    mdr := s.cycle.mdr.getD s.mdr
    n := (s.cycle.flags.getD (s.n, s.z, s.p)).1
    z := (s.cycle.flags.getD (s.n, s.z, s.p)).2.1
    p := (s.cycle.flags.getD (s.n, s.z, s.p)).2.2
    ben := s.cycle.ben.getD s.ben
    ready := s.cycle.ready.getD s.ready
    regs := (s.cycle.reg.map fun w => setReg s.regs w.1 w.2).getD s.regs
    stateIdx := s.cycle.ns.getD s.stateIdx
    cw := (s.cycle.ns.map (controlStoreAt s.params)).getD s.cw
    memCnt := s.cycle.memCnt.getD s.memCnt
    mem := applyStore s.mem s.cycle.store
    fault := s.fault
    lastBus := s.cycle.bus
    params := s.params
    cycle := .idle }

/-- `HALTED`: PC equals the sentinel (10_state R33, 45_cycle R252). Not stored. -/
def State.halted (s : State) : Bool := s.pc == s.params.haltPc

end Sys2Proof.Machine
end

