-- ==== Sys2Proof/Machine/Operands.lean ====
section
/-! DEFINITION. The value functions of the sequencer and the functional units (spec 40_sequencer, 42_datapath_units,
30_encoding R94). -/

namespace Sys2Proof.Machine

open Sys2Proof

/-! ### Next-state index, 40_sequencer R132 to R136: exactly one bit of the base is replaced (R139) -/

/-- `zext(IR[15:12])` (R132). -/
def indexDispatch (ir : Word) : StateIdx := (irOpcode ir).setWidth 6

/-- Bit 1 of the base replaced by READY (R134). -/
def indexMemwait (j : StateIdx) (ready : Bool) : StateIdx := (j &&& 0b111101) ||| ((BitVec.ofBool ready).setWidth 6 <<< 1)

/-- Bit 2 of the base replaced by BEN (R135). -/
def indexBranch (j : StateIdx) (ben : Bool) : StateIdx := (j &&& 0b111011) ||| ((BitVec.ofBool ben).setWidth 6 <<< 2)

/-- Bit 0 of the base replaced by `IR[11]` (R136). -/
def indexAddrmode (j : StateIdx) (ir : Word) : StateIdx := (j &&& 0b111110) ||| (BitVec.ofBool (ir.getLsbD 11)).setWidth 6

/-! ### Immediates and offsets, 30_encoding R94 -/

/-- `sext_5(IR[4:0])` -/
def imm5Value (v : BitVec 5) : Word := v.signExtend 16
/-- `sext_6(IR[5:0])` -/
def offset6Value (ir : Word) : Word := (irOffset6 ir).signExtend 16
/-- `sext_9(IR[8:0])` -/
def offset9Value (ir : Word) : Word := (irOffset9 ir).signExtend 16
/-- `sext_11(IR[10:0])` -/
def offset11Value (ir : Word) : Word := (irOffset11 ir).signExtend 16
/-- `zext_8(IR[7:0]) << 1` (42_datapath_units R185) -/
def vect8Value (ir : Word) : Word := (irLowByte ir).setWidth 16 <<< 1
/-- the offset shifted left by one, truncated (42_datapath_units R182) -/
def shiftedOffset (off : Word) : Word := off <<< 1

/-! ### Shifter, 42_datapath_units R177, R178, R180 -/

/-- logical left shift -/
def shiftLeft (src : Word) (amt : BitVec 4) : Word := src <<< amt.toNat
/-- logical right shift -/
def shiftRight (src : Word) (amt : BitVec 4) : Word := src >>> amt.toNat
/-- arithmetic right shift -/
def shiftRightArith (src : Word) (amt : BitVec 4) : Word := src.sshiftRight amt.toNat

/-! ### PC-source mux, 42_datapath_units R186 -/

/-- `trunc16(PC + 2)` -/
def pcPlus2 (pc : Word) : Word := pc + 2

/-- An ALU operation on the two operands, computed where both are (42_datapath_units R172 to R174). -/
def aluBinary (f : Word → Word → Word) (s : State) : Result :=
  .next (s.inFlight fun c =>
    { c with alu := match c.opA, c.opB with
        | some a, some b => some (f a b)
        | _, _ => none })

end Sys2Proof.Machine
end

