-- ==== Sys2Proof/Machine/AddressUnit.lean ====
section
/-! DEFINITION. The address adder's operands and the MAR-source mux (spec 42_datapath_units R181 to R185). The sum itself has no
row of its own: `Inflight.adder`. -/

namespace Sys2Proof.Machine

open Sys2Proof

/-- The adder's offset before the shift. -/
def putOffset (v : Word) (s : State) : Result := .next (s.inFlight fun c => { c with off := some v })

/-- ADDR2.ZERO (R181). -/
def execAddr2Zero (s : State) : Result := putOffset 0 s

/-- ADDR2.OFF6: `sext_6(IR[5:0])` (R181). -/
def execAddr2Off6 (s : State) : Result := putOffset (offset6Value s.ir) s

/-- ADDR2.OFF9: `sext_9(IR[8:0])` (R181). -/
def execAddr2Off9 (s : State) : Result := putOffset (offset9Value s.ir) s

/-- ADDR2.OFF11: `sext_11(IR[10:0])` (R181). -/
def execAddr2Off11 (s : State) : Result := putOffset (offset11Value s.ir) s

/-- LSHF1.OFF: operand 1 is the offset (R182). -/
def execLshf1Off (s : State) : Result := .next (s.inFlight fun c => { c with op1 := c.off })

/-- LSHF1.ON: operand 1 is the offset shifted left by one (R182). -/
def execLshf1On (s : State) : Result := .next (s.inFlight fun c => { c with op1 := c.off.map shiftedOffset })

/-- ADDR1.PC: operand 2 is the latched PC of this cycle (R183). -/
def execAddr1Pc (s : State) : Result := .next (s.inFlight fun c => { c with op2 := some s.pc })

/-- ADDR1.BASER: operand 2 is `REGS[IR[8:6]]` (R183). -/
def execAddr1Baser (s : State) : Result := .next (s.inFlight fun c => { c with op2 := some (s.reg (irBase s.ir)) })

/-- MARMUX.VECT8: the zero-extended low byte of IR, shifted left by one (R185). -/
def execMarmuxVect8 (s : State) : Result := .next (s.inFlight fun c => { c with marmuxOut := some (vect8Value s.ir) })

/-- MARMUX.ADDER: the adder's sum (R185). -/
def execMarmuxAdder (s : State) : Result := .next (s.inFlight fun c => { c with marmuxOut := c.adder })

end Sys2Proof.Machine
end

