-- ==== Sys2Proof/Machine/Alu.lean ====
section
/-! DEFINITION. The ALU's operands and operations (spec 42_datapath_units R170 to R175). They write no state: a result reaches
the bus only under GATE_ALU, the flags only under LD_CC. -/

namespace Sys2Proof.Machine

open Sys2Proof

/-- SR1.IR11_9: operand A is `REGS[IR[11:9]]` (R170). -/
def execSr1Ir11_9 (s : State) : Result := .next (s.inFlight fun c => { c with opA := some (s.reg (irDr s.ir)) })

/-- SR1.IR8_6: operand A is `REGS[IR[8:6]]` (R170). -/
def execSr1Ir8_6 (s : State) : Result := .next (s.inFlight fun c => { c with opA := some (s.reg (irBase s.ir)) })

/-- OPB.REG: operand B is the register `IR[2:0]` (R171). -/
def execOpbReg (sr2 : RegIdx) (s : State) : Result := .next (s.inFlight fun c => { c with opB := some (s.reg sr2) })

/-- OPB.IMM5: operand B is the sign-extended immediate `IR[4:0]` (R171). -/
def execOpbImm5 (imm5 : BitVec 5) (s : State) : Result :=
  .next (s.inFlight fun c => { c with opB := some (imm5Value imm5) })

/-- ALU.ADD: the sum truncated to 16 bits (R172). -/
def execAluAdd (s : State) : Result := aluBinary (· + ·) s

/-- ALU.AND (R173). -/
def execAluAnd (s : State) : Result := aluBinary (· &&& ·) s

/-- ALU.XOR (R174). -/
def execAluXor (s : State) : Result := aluBinary (· ^^^ ·) s

/-- ALU.PASSA: operand A; operand B is not used (R175). -/
def execAluPassa (s : State) : Result := .next (s.inFlight fun c => { c with alu := c.opA })

end Sys2Proof.Machine
end

