-- ==== Sys2Proof/Machine/BusArbiter.lean ====
section
/-! DEFINITION. The bus arbiter (spec 43_bus_arbiter): one driver, or none. Two or more gates select no row; that error is the
cycle's (Machine/Cycle.lean). -/

namespace Sys2Proof.Machine

open Sys2Proof

/-- The bus takes a unit's output. -/
def drive (out : Inflight → Option Word) (s : State) : Result := .next (s.inFlight fun c => { c with bus := out c })

/-- BUS.NONE: the bus is undriven (R213). -/
def execBusNone (s : State) : Result := drive (fun _ => none) s

/-- GATE.PC: the PC register (R211, D7). -/
def execGatePc (s : State) : Result := drive (fun _ => some s.pc) s

/-- GATE.MDR: MDR as it stands (R211). -/
def execGateMdr (s : State) : Result := drive (fun _ => some s.mdr) s

/-- GATE.ALU: the ALU's output (R211). -/
def execGateAlu (s : State) : Result := drive (·.alu) s

/-- GATE.MARMUX: the MAR-source mux output (R211). -/
def execGateMarmux (s : State) : Result := drive (·.marmuxOut) s

/-- GATE.SHF: the shifter's output, or `ShifterReservedMode` where `IR[5:4] = 0b10` (R211). -/
def execGateShf (s : State) : Result :=
  if irShiftMode s.ir = 2 then .next (s.raise .shifterReservedMode) else drive (·.shf) s

end Sys2Proof.Machine
end

