-- ==== Sys2Proof/Machine/Flags.lean ====
section
/-! DEFINITION. The condition flags of a bus value and the branch-enable flag (spec 44_latch_update R226, R227). -/

namespace Sys2Proof.Machine

open Sys2Proof

/-- N, Z, P of a bus value: "zero-flag if bus==0; negative-flag if bus's bit 15 set; else positive-flag" (R226). -/
def flagsOf (bus : Word) : Bool × Bool × Bool :=
  (bus.getLsbD 15, bus == 0, !(bus == 0) && !bus.getLsbD 15)

/-- `(IR[11] & N) | (IR[10] & Z) | (IR[9] & P)` (R227; the or, decision D19). -/
def benOf (ir : Word) (n z p : Bool) : Bool :=
  (ir.getLsbD 11 && n) || (ir.getLsbD 10 && z) || (ir.getLsbD 9 && p)

end Sys2Proof.Machine
end

