-- ==== Sys2Proof/Machine/LatchUpdate.lean ====
section
/-! DEFINITION. The loads of the latch update (spec 44_latch_update R221 to R228): each puts a next value into the transient, the
commit makes it current. A load that reads an undriven bus is the error `BusUndriven` (R213 of 43_bus_arbiter). -/

namespace Sys2Proof.Machine

open Sys2Proof

/-- LD.MAR (R221). -/
def execLdMar (s : State) : Result := withBus s fun v c => { c with mar := some v }

/-- LD.IR (R222). -/
def execLdIr (s : State) : Result := withBus s fun v c => { c with ir := some v }

/-- LD.MDR.BUS: all 16 bits of the bus (R224). -/
def execLdMdrBus (s : State) : Result := withBus s fun v c => { c with mdr := some v }

/-- LD.MDR.MEM: the read result if this cycle completes a read, else MDR keeps its value; the bus is not read (R225, D13). -/
def execLdMdrMem (s : State) : Result := .next (s.inFlight fun c => { c with mdr := c.readResult })

/-- LD.CC: all three flags, from the bus value (R226). -/
def execLdCc (s : State) : Result := withBus s fun v c => { c with flags := some (flagsOf v) }

/-- LD.BEN: from IR and the current flags; the bus is not read (R227). -/
def execLdBen (s : State) : Result := .next (s.inFlight fun c => { c with ben := some (benOf s.ir s.n s.z s.p) })

/-- LD.REG.IR: the register `IR[11:9]` takes the bus value (R228, DRMUX = 0). -/
def execLdRegIr (s : State) : Result := withBus s fun v c => { c with reg := some (irDr s.ir, v) }

/-- LD.REG.R7: register 7 takes the bus value (R228, DRMUX = 1). -/
def execLdRegR7 (s : State) : Result := withBus s fun v c => { c with reg := some (7, v) }

end Sys2Proof.Machine
end

