-- ==== Sys2Proof/Machine/MemoryUnit.lean ====
section
/-! DEFINITION. The memory timing unit's micro-operations (spec 41_memory_timing). Address and data of an access are MAR and MDR
of the snapshot of the 5th tick (R158, 20_memory R63). -/

namespace Sys2Proof.Machine

open Sys2Proof

/-- MEM.IDLE: counter and READY cleared, an access in progress abandoned (R157, R159). -/
def execMemIdle (s : State) : Result := .next (s.inFlight fun c => { c with memCnt := some 0, ready := some false })

/-- MEM.RD.B: at tick 5 the sign-extended byte at MAR becomes the pending read result (R154). -/
def execMemRdB (s : State) : Result := memTick s fun c => { c with readResult := some (s.mem.readByte s.mar) }

/-- MEM.RD.W: at tick 5 the word containing MAR becomes the pending read result (R153). -/
def execMemRdW (s : State) : Result := memTick s fun c => { c with readResult := some (s.mem.readWord s.mar) }

/-- MEM.WR.B: at tick 5 the low byte of MDR is stored at MAR (R156). -/
def execMemWrB (s : State) : Result := memTick s fun c => { c with store := some ⟨s.mar, false, s.mdr⟩ }

/-- MEM.WR.W: at tick 5 MDR is stored in the word containing MAR (R155). -/
def execMemWrW (s : State) : Result := memTick s fun c => { c with store := some ⟨s.mar, true, s.mdr⟩ }

end Sys2Proof.Machine
end

