-- ==== Sys2Proof/Machine/PcLoad.lean ====
section
/-! DEFINITION. The PC-source mux and the PC load (spec 42_datapath_units R186, 44_latch_update R220, R223). -/

namespace Sys2Proof.Machine

open Sys2Proof

/-- PC.HOLD: PC is carried over (R220). -/
def execPcHold (s : State) : Result := .next (s.inFlight fun c => { c with pc := none })

/-- PC.INC2: PC takes PC + 2 (R186, R223). -/
def execPcInc2 (s : State) : Result := .next (s.inFlight fun c => { c with pc := some (pcPlus2 s.pc) })

/-- PC.BUS: PC takes the bus value (R186, R223). -/
def execPcBus (s : State) : Result := withBus s fun v c => { c with pc := some v }

/-- PC.ADDER: PC takes the adder's sum (R186, R223). -/
def execPcAdder (s : State) : Result := .next (s.inFlight fun c => { c with pc := c.adder })

/-- PC.RESERVED: the mux has no fourth input, the error `PCMuxReserved` (R186; 60_exceptions R273). -/
def execPcReserved (s : State) : Result := .next (s.raise .pcMuxReserved)

end Sys2Proof.Machine
end

