-- ==== Sys2Proof/Machine/Sequencer.lean ====
section
/-! DEFINITION. The micro-sequencer's micro-operations (spec 40_sequencer): each puts out the next-state index `ns`, which the
commit latches into STATE and CW (R137). All read the current snapshot (R131). -/

namespace Sys2Proof.Machine

open Sys2Proof

/-- The sequencer's output `ns` (R131). -/
def putIndex (ns : StateIdx) (s : State) : Result := .next (s.inFlight fun c => { c with ns := some ns })

/-- SEQ.DISPATCH (R132). -/
def execSeqDispatch (s : State) : Result := putIndex (indexDispatch s.ir) s

/-- SEQ.NEXT (R133). -/
def execSeqNext (j : StateIdx) (s : State) : Result := putIndex j s

/-- SEQ.MEMWAIT (R134). -/
def execSeqMemwait (j : StateIdx) (s : State) : Result := putIndex (indexMemwait j s.ready) s

/-- SEQ.BRANCH (R135). -/
def execSeqBranch (j : StateIdx) (s : State) : Result := putIndex (indexBranch j s.ben) s

/-- SEQ.ADDRMODE (R136). -/
def execSeqAddrmode (j : StateIdx) (s : State) : Result := putIndex (indexAddrmode j s.ir) s

end Sys2Proof.Machine
end

