-- ==== Sys2Proof/Machine/Shifter.lean ====
section
/-! DEFINITION. The shifter (spec 42_datapath_units R176 to R180): source `REGS[IR[8:6]]`, amount `IR[3:0]`, mode `IR[5:4]`. Its
rows apply only under GATE_SHF (30_encoding R96). -/

namespace Sys2Proof.Machine

open Sys2Proof

/-- The shifter's output. -/
def putShift (v : Word) (s : State) : Result := .next (s.inFlight fun c => { c with shf := some v })

/-- SHF.LSHF: logical left shift (R177). -/
def execShfLshf (sr : RegIdx) (amount : BitVec 4) (s : State) : Result := putShift (shiftLeft (s.reg sr) amount) s

/-- SHF.RSHFL: logical right shift (R178). -/
def execShfRshfl (sr : RegIdx) (amount : BitVec 4) (s : State) : Result := putShift (shiftRight (s.reg sr) amount) s

/-- SHF.RESERVED: the shifter is gated in its reserved mode, the error `ShifterReservedMode` (R179; 60_exceptions R272). -/
def execShfReserved (s : State) : Result := .next (s.raise .shifterReservedMode)

/-- SHF.RSHFA: arithmetic right shift (R180). -/
def execShfRshfa (sr : RegIdx) (amount : BitVec 4) (s : State) : Result :=
  putShift (shiftRightArith (s.reg sr) amount) s

end Sys2Proof.Machine
end

