-- ==== Sys2Proof/Machine/Dispatch.lean ====
section
/-! DEFINITION. The dispatch: one arm per micro-operation, each a direct call of its meaning. -/

namespace Sys2Proof.Machine

open Sys2Proof

def exec (i : Instr) (s : State) : Host.Outcome State Fault Refusal :=
  match i with
  | .seqDispatch => Sys2Proof.Machine.execSeqDispatch s
  | .seqNext j => Sys2Proof.Machine.execSeqNext j s
  | .seqMemwait j => Sys2Proof.Machine.execSeqMemwait j s
  | .seqBranch j => Sys2Proof.Machine.execSeqBranch j s
  | .seqAddrmode j => Sys2Proof.Machine.execSeqAddrmode j s
  | .memIdle => Sys2Proof.Machine.execMemIdle s
  | .memRdB => Sys2Proof.Machine.execMemRdB s
  | .memRdW => Sys2Proof.Machine.execMemRdW s
  | .memWrB => Sys2Proof.Machine.execMemWrB s
  | .memWrW => Sys2Proof.Machine.execMemWrW s
  | .aluAdd => Sys2Proof.Machine.execAluAdd s
  | .aluAnd => Sys2Proof.Machine.execAluAnd s
  | .aluXor => Sys2Proof.Machine.execAluXor s
  | .aluPassa => Sys2Proof.Machine.execAluPassa s
  | .sr1Ir11_9 => Sys2Proof.Machine.execSr1Ir11_9 s
  | .sr1Ir8_6 => Sys2Proof.Machine.execSr1Ir8_6 s
  | .opbReg sr2 => Sys2Proof.Machine.execOpbReg sr2 s
  | .opbImm5 imm5 => Sys2Proof.Machine.execOpbImm5 imm5 s
  | .shfLshf sr amount => Sys2Proof.Machine.execShfLshf sr amount s
  | .shfRshfl sr amount => Sys2Proof.Machine.execShfRshfl sr amount s
  | .shfReserved => Sys2Proof.Machine.execShfReserved s
  | .shfRshfa sr amount => Sys2Proof.Machine.execShfRshfa sr amount s
  | .addr2Zero => Sys2Proof.Machine.execAddr2Zero s
  | .addr2Off6 => Sys2Proof.Machine.execAddr2Off6 s
  | .addr2Off9 => Sys2Proof.Machine.execAddr2Off9 s
  | .addr2Off11 => Sys2Proof.Machine.execAddr2Off11 s
  | .lshf1Off => Sys2Proof.Machine.execLshf1Off s
  | .lshf1On => Sys2Proof.Machine.execLshf1On s
  | .addr1Pc => Sys2Proof.Machine.execAddr1Pc s
  | .addr1Baser => Sys2Proof.Machine.execAddr1Baser s
  | .marmuxVect8 => Sys2Proof.Machine.execMarmuxVect8 s
  | .marmuxAdder => Sys2Proof.Machine.execMarmuxAdder s
  | .busNone => Sys2Proof.Machine.execBusNone s
  | .gatePc => Sys2Proof.Machine.execGatePc s
  | .gateMdr => Sys2Proof.Machine.execGateMdr s
  | .gateAlu => Sys2Proof.Machine.execGateAlu s
  | .gateMarmux => Sys2Proof.Machine.execGateMarmux s
  | .gateShf => Sys2Proof.Machine.execGateShf s
  | .pcHold => Sys2Proof.Machine.execPcHold s
  | .pcInc2 => Sys2Proof.Machine.execPcInc2 s
  | .pcBus => Sys2Proof.Machine.execPcBus s
  | .pcAdder => Sys2Proof.Machine.execPcAdder s
  | .pcReserved => Sys2Proof.Machine.execPcReserved s
  | .ldMar => Sys2Proof.Machine.execLdMar s
  | .ldIr => Sys2Proof.Machine.execLdIr s
  | .ldMdrBus => Sys2Proof.Machine.execLdMdrBus s
  | .ldMdrMem => Sys2Proof.Machine.execLdMdrMem s
  | .ldCc => Sys2Proof.Machine.execLdCc s
  | .ldBen => Sys2Proof.Machine.execLdBen s
  | .ldRegIr => Sys2Proof.Machine.execLdRegIr s
  | .ldRegR7 => Sys2Proof.Machine.execLdRegR7 s

end Sys2Proof.Machine
end

