-- ==== Sys2Proof/Machine/Cycle.lean ====
section
/-! DEFINITION. The cycle: the micro-operations that the latched control word and IR select, run in the order of a cycle on the
frozen snapshot, then committed together (spec 45_cycle R250, R251; 10_state R40). -/

namespace Sys2Proof.Machine

open Sys2Proof

/-- Run micro-operations in order, stopping at the first defined error: an erring cycle goes no further (60_exceptions R276). -/
def runOps : List Instr → State → Result
  | [], s => .next s
  | i :: rest, s =>
    match exec i s with
    | .next t => if t.fault.isSome then .next t else runOps rest t
    | .fault r => .fault r
    | .refused r => .refused r

/-- The end of a cycle: commit, unless an error was recorded, and then nothing is committed (60_exceptions R276). -/
def finishCycle : Result → Result
  | .next t => if t.fault.isSome then .next t else .next t.commit
  | .fault r => .fault r
  | .refused r => .refused r

/-- One cycle of a machine that is neither faulted nor halted. The transient starts idle. The check for two gates precedes
every other (60_exceptions R275): such a word selects no row of the bus-driver group. -/
def runCycle (s : State) : Result :=
  match select s.cw s.ir with
  | .error _ => .next (s.openCycle.raise .multipleBusDrivers)
  | .ok m => finishCycle (runOps m.ops s.openCycle)

/-- The start-of-cycle checks (45_cycle R252): a recorded error stops the step, a halted machine stays as it is ("no further
state transition occurs"), anything else runs a cycle. -/
def stepCycle (s : State) : Result :=
  match s.fault with
  | some e => .fault e
  | none => if s.halted then .next s else runCycle s

/-! ### The word the next cycle executes, for the host -/

/-- The gate under which a word of IR is read as its shifter row. -/
def shifterWord : ControlWord := { ControlWord.zero with gateShf := true }

/-- Put a control word where the next cycle takes it from: CW, and the control-store row of STATE, so that CW = CS(STATE)
(10_state R36). -/
def placeControlWord (s : State) (c : ControlWord) : State :=
  { s with
    cw := c
    params := { s.params with controlStore := s.params.controlStore.set s.stateIdx.toNat c s.stateIdx.isLt } }

/-- A machine whose next step runs a cycle: no error recorded and PC off the sentinel (45_cycle R252). -/
def makeRunnable (s : State) : State :=
  { s with fault := none, pc := if s.halted then s.params.haltPc + 2 else s.pc }

/-- The state whose next step executes the given word: 16 bits are IR under GATE_SHF, another width is a control word. -/
def placeWord (s : State) (nbits w : Nat) : State :=
  if nbits = 16 then makeRunnable (placeControlWord { s with ir := BitVec.ofNat 16 w } shifterWord)
  else makeRunnable (placeControlWord s (ControlWord.ofBits (BitVec.ofNat 35 w)))

end Sys2Proof.Machine
end

