-- ==== Sys2Proof/Machine/Step.lean ====
section
/-! DEFINITION. The step: one cycle (spec 45_cycle R251), and the host's placement of a word. -/

namespace Sys2Proof.Machine

open Sys2Proof

/-- One step is one cycle (45_cycle R251, R258). -/
def step (s : State) : Host.Outcome State Fault Refusal := stepCycle s

/-- `s` with the word stored where the next step takes it from. It stands for the host's load of a control store before reset
release (45_cycle R256; log 15). -/
def State.withFetchWord (s : State) (nbits w : Nat) : State := placeWord s nbits w

end Sys2Proof.Machine
end

