-- ==== Sys2Proof/Machine/Reset.lean ====
section
/-! DEFINITION. Reset for every value of the parameters (spec 10_state R41, 70_reset_and_hazards R290, R291). -/

namespace Sys2Proof.Machine

open Sys2Proof

/-- The state after reset under the parameters `p`: the table of 10_state R41. Re-initialisation during a run is the same
(R44). `State.reset` is this state for `Params.default`. -/
def resetWith (p : Params) : State :=
  { pc := p.resetPc
    ir := 0, mar := 0, mdr := 0
    n := false, z := true, p := false
    ben := false, ready := false
    regs := Vector.replicate 8 0
    stateIdx := p.initialState
    cw := controlStoreAt p p.initialState
    memCnt := 0
    mem := Memory.ofImage p.memImage
    fault := none
    lastBus := none
    params := p
    cycle := .idle }

end Sys2Proof.Machine
end

