-- ==== Sys2Proof/Machine/HostOps.lean ====
section
/-! DEFINITION. What the host may do to the CORE (spec 45_cycle R252 to R256, 10_state R43, 20_memory R76, 30_encoding R100):
load, reset, run, observe. It never writes state during a run. -/

namespace Sys2Proof.Machine

open Sys2Proof

/-- The run status of 45_cycle R252. -/
inductive RunStatus where
  | running
  | halted
  | faulted (e : Fault)
deriving DecidableEq, Repr

/-- A recorded error is checked before the sentinel (45_cycle R252, D22). -/
def State.status (s : State) : RunStatus :=
  match s.fault with
  | some e => .faulted e
  | none => if s.halted then .halted else .running

/-- "Run for N cycles" (45_cycle R253): up to `k` steps, none from a halted or faulted state. -/
def runFor : Nat → State → State
  | 0, s => s
  | k + 1, s =>
    if s.status = .running then
      match step s with
      | .next t => runFor k t
      | _ => s
    else s

/-- "Run until halt" under fuel (45_cycle R254): the final state if the run ends within `fuel` cycles. -/
def runUntilEnd : Nat → State → Option State
  | 0, s => if s.status = .running then none else some s
  | k + 1, s =>
    if s.status = .running then
      match step s with
      | .next t => runUntilEnd k t
      | _ => none
    else some s

/-- The register dump: "program counter, instruction register, state index, bus value, MDR, MAR, the three condition flags, and
all 8 general registers" (10_state R43), the bus `none` for undriven (D26); and BEN, READY, MEMCNT and CW, which R43 lets a model
expose and which make it every latch (R42). CW is read here after a defined error (60_exceptions R277), the error itself by
`State.status`. -/
structure RegisterDump where
  pc : Word
  ir : Word
  stateIdx : StateIdx
  bus : Option Word
  mdr : Word
  mar : Word
  n : Bool
  z : Bool
  p : Bool
  regs : Vector Word 8
  ben : Bool
  ready : Bool
  memCnt : BitVec 3
  cw : ControlWord
deriving DecidableEq, Repr

/-- Dump registers, bus and state (45_cycle R256). -/
def dumpRegisters (s : State) : RegisterDump :=
  { pc := s.pc, ir := s.ir, stateIdx := s.stateIdx, bus := s.lastBus, mdr := s.mdr, mar := s.mar, n := s.n, z := s.z,
    p := s.p, regs := s.regs, ben := s.ben, ready := s.ready, memCnt := s.memCnt, cw := s.cw }

/-- Dump a memory range (45_cycle R256): "memory contents by byte-pair per word address" (10_state R43), from word index `first`,
`count` words. DESIGN CHOICE (log 25): a row is the word's byte address, its low lane and its high lane; a range that runs past
the last word ends there. -/
def dumpMemory (s : State) (first count : Nat) : List (Nat × Byte × Byte) :=
  ((List.range' first count).filter fun w => 2 * w < memBytes).map fun w =>
    (2 * w, s.mem.byteAt (2 * w), s.mem.byteAt (2 * w + 1))

/-- The words of a program image from load address `base`: the k-th at `trunc16(L + 2k)`; an empty image and one that passes
the memory bound are refused (20_memory R76, 60_exceptions R283). -/
def imagePlacements (base : Word) (words : List Word) : Option (List (Word × Word)) :=
  if words = [] ∨ 32768 < (base.extractLsb' 1 15).toNat + words.length then none
  else some (words.mapIdx fun k v => (base + BitVec.ofNat 16 (2 * k), v))

/-- The bits of a line of '0' and '1', first character most significant; any other character is refused (30_encoding R100). -/
def lineBits : List Char → Nat → Option Nat
  | [], acc => some acc
  | c :: rest, acc => if c = '0' then lineBits rest (2 * acc) else if c = '1' then lineBits rest (2 * acc + 1) else none

/-- One line of a microprogram file: 35 characters (30_encoding R100); a short line is refused. -/
def rowOfLine (line : List Char) : Option ControlWord :=
  if line.length = 35 then (lineBits line 0).map fun w => ControlWord.ofBits (BitVec.ofNat 35 w) else none

/-- A microprogram file: its first 64 lines, line i is row i (30_encoding R100); too few lines, or a bad one, is refused. -/
def controlStoreOfLines (lines : List (List Char)) : Option (Vector ControlWord 64) :=
  match (lines.take 64).mapM rowOfLine with
  | none => none
  | some rows => if h : rows.length = 64 then some ⟨rows.toArray, by simp [h]⟩ else none

/-- Reset with a microprogram and a program image, RESET_PC at the image's load address (70_reset_and_hazards R290; 00_scope R5).
A malformed file or an image that does not fit leaves no reset state (60_exceptions R283). -/
def boot (lines : List (List Char)) (initialState : StateIdx) (haltPc base : Word) (words : List Word) : Option State :=
  match controlStoreOfLines lines, imagePlacements base words with
  | some store, some image =>
    some (resetWith { controlStore := store, initialState, haltPc, resetPc := base, memImage := image })
  | _, _ => none

end Sys2Proof.Machine
end

