-- ==== Sys2Proof/Machine/Reference.lean ====
section
/-! DEFINITION. The step function of spec 45_cycle R251 written down as it stands there, one expression per line of it, without
micro-operations: what the composition of the section files' micro-operations must agree with ("the two must agree"). -/

namespace Sys2Proof.Machine.Reference

open Sys2Proof

/-- R251 returns `halted`, `faulted(e)` or `next(s', bus)`. -/
inductive Verdict where
  | halted
  | faulted (e : Fault)
  | next (s : State) (bus : Option Word)

/-- Part 1, the micro-sequencer. -/
def nextIndex (s : State) : StateIdx :=
  if s.cw.ird then (irOpcode s.ir).setWidth 6
  else match s.cw.cond with
    | 0 => s.cw.j
    | 1 => (s.cw.j &&& 0b111101) ||| (if s.ready then 2 else 0)
    | 2 => (s.cw.j &&& 0b111011) ||| (if s.ben then 4 else 0)
    | 3 => (s.cw.j &&& 0b111110) ||| (if s.ir.getLsbD 11 then 1 else 0)

/-- Part 2, the memory timing unit: `cnt'`, `ready'`, `read_result`, `mem'`. -/
def nextCount (s : State) : BitVec 3 :=
  if s.cw.mioEn then (if s.memCnt.toNat + 1 = 5 then 0 else BitVec.ofNat 3 (s.memCnt.toNat + 1)) else 0

def nextReady (s : State) : Bool := s.cw.mioEn && decide (s.memCnt.toNat + 1 = 4)

def readResult (s : State) : Option Word :=
  if s.cw.mioEn && decide (s.memCnt.toNat + 1 = 5) && !s.cw.rW then
    some (if s.cw.dataSize then s.mem.readWord s.mar else s.mem.readByte s.mar)
  else none

def nextMem (s : State) : Memory :=
  if s.cw.mioEn && decide (s.memCnt.toNat + 1 = 5) && s.cw.rW then
    (if s.cw.dataSize then s.mem.writeWord s.mar s.mdr else s.mem.writeByte s.mar s.mdr)
  else s.mem

/-- Part 3, the functional units. -/
def aluOut (s : State) : Word :=
  let a := if s.cw.sr1Mux then s.reg (irBase s.ir) else s.reg (irDr s.ir)
  let b := if irImmSelect s.ir then (irImm5 s.ir).signExtend 16 else s.reg (irSr2 s.ir)
  match s.cw.aluK with
  | 0 => a + b
  | 1 => a &&& b
  | 2 => a ^^^ b
  | 3 => a

/-- `none` where R251 says "no value". -/
def shfOut (s : State) : Option Word :=
  let src := s.reg (irBase s.ir)
  let amt := (irAmount s.ir).toNat
  match irShiftMode s.ir with
  | 0 => some (src <<< amt)
  | 1 => some (src >>> amt)
  | 2 => none
  | 3 => some (src.sshiftRight amt)

def adderOut (s : State) : Word :=
  let off : Word := match s.cw.addr2Mux with
    | 0 => 0
    | 1 => (irOffset6 s.ir).signExtend 16
    | 2 => (irOffset9 s.ir).signExtend 16
    | 3 => (irOffset11 s.ir).signExtend 16
  let op1 := if s.cw.lshf1 then off <<< 1 else off
  let op2 := if s.cw.addr1Mux then s.reg (irBase s.ir) else s.pc
  op1 + op2

def marmuxOut (s : State) : Word :=
  if s.cw.marMux then adderOut s else (irLowByte s.ir).setWidth 16 <<< 1

/-- Part 4, the defined errors: `g`, `needs_bus`, and the first that holds (60_exceptions R275). -/
def gateCount (c : ControlWord) : Nat :=
  c.gatePc.toNat + c.gateMdr.toNat + c.gateAlu.toNat + c.gateMarmux.toNat + c.gateShf.toNat

def needsBus (c : ControlWord) : Bool :=
  c.ldMar || c.ldIr || c.ldCc || c.ldReg || (c.ldMdr && !c.mioEn) || (c.ldPc && c.pcMux == 1)

def errorOf (c : ControlWord) (ir : Word) : Option Fault :=
  if 2 ≤ gateCount c then some .multipleBusDrivers
  else if c.gateShf && irShiftMode ir == 2 then some .shifterReservedMode
  else if c.ldPc && c.pcMux == 3 then some .pcMuxReserved
  else if gateCount c = 0 && needsBus c then some .busUndriven
  else none

/-- Part 5, the bus arbiter. -/
def busOf (s : State) : Option Word :=
  if s.cw.gatePc then some s.pc
  else if s.cw.gateMdr then some s.mdr
  else if s.cw.gateAlu then some (aluOut s)
  else if s.cw.gateMarmux then some (marmuxOut s)
  else if s.cw.gateShf then shfOut s
  else none

/-- Parts 6 and 7, the latch update and the unconditional latches; `bus` is the bus value, `v` stands for it where a consumer
reads it (an undriven bus has no consumer here, part 4). -/
def latched (s : State) (bus : Option Word) : State :=
  let v := bus.getD 0
  { pc := if s.cw.ldPc then (match s.cw.pcMux with
        | 0 => s.pc + 2
        | 1 => v
        | 2 => adderOut s
        | 3 => s.pc)
      else s.pc
    ir := if s.cw.ldIr then v else s.ir
    mar := if s.cw.ldMar then v else s.mar
    mdr := if s.cw.ldMdr then (if s.cw.mioEn then (readResult s).getD s.mdr else v) else s.mdr
    n := if s.cw.ldCc then v.getLsbD 15 else s.n
    z := if s.cw.ldCc then v == 0 else s.z
    p := if s.cw.ldCc then v != 0 && !v.getLsbD 15 else s.p
    ben := if s.cw.ldBen then
        (s.ir.getLsbD 11 && s.n) || (s.ir.getLsbD 10 && s.z) || (s.ir.getLsbD 9 && s.p)
      else s.ben
    ready := nextReady s
    regs := if s.cw.ldReg then setReg s.regs (if s.cw.drMux then 7 else irDr s.ir) v else s.regs
    stateIdx := nextIndex s
    cw := controlStoreAt s.params (nextIndex s)
    memCnt := nextCount s
    mem := nextMem s
    fault := s.fault
    lastBus := bus
    params := s.params
    cycle := .idle }

/-- `step(P, s)` of 45_cycle R251. -/
def referenceStep (s : State) : Verdict :=
  match s.fault with
  | some e => .faulted e
  | none =>
    if s.pc = s.params.haltPc then .halted
    else match errorOf s.cw s.ir with
      | some e => .faulted e
      | none => .next (latched s (busOf s)) (busOf s)

end Sys2Proof.Machine.Reference
end

