-- ==== Sys2Proof/Safety.lean ====
section
/-! DEFINITION. What statements speak of: a machine that runs, the invariants of spec 10_state R36 to R38 and the memory's
canonical form, and a control word that can raise no error of its own (70_reset_and_hazards R293). -/

namespace Sys2Proof.Machine

open Sys2Proof

/-- The next step executes a cycle: no error recorded, PC off the sentinel (45_cycle R252). -/
abbrev State.Running (s : State) : Prop := s.fault = none ∧ s.pc ≠ s.params.haltPc

/-- Exactly one of N, Z, P is set (10_state R37). -/
def State.oneFlag (s : State) : Bool :=
  (s.n && !s.z && !s.p) || (!s.n && s.z && !s.p) || (!s.n && !s.z && s.p)

/-- CW = CS(STATE) (10_state R36). -/
def State.wordLatched (s : State) : Bool := s.cw == controlStoreAt s.params s.stateIdx

/-- MEMCNT is at most 4, and READY is set exactly when it is 4 (10_state R38). -/
def State.counterOk (s : State) : Bool := decide (s.memCnt.toNat ≤ 4) && (s.ready == decide (s.memCnt.toNat = 4))

/-- The invariant of every reachable state between cycles. -/
def State.wellFormed (s : State) : Bool :=
  s.wordLatched && s.oneFlag && s.counterOk && s.mem.wf && (s.cycle == .idle)

/-- The word can raise no error that depends on the word alone: at most one gate, no PC load from the missing mux input, a
gate wherever a bus consumer is enabled (70_reset_and_hazards R293). -/
def cleanWord (c : ControlWord) : Bool :=
  decide (Reference.gateCount c ≤ 1) && !(c.ldPc && c.pcMux == 3) && (!Reference.needsBus c || decide (Reference.gateCount c = 1))

/-- Every row of the control store is clean (70_reset_and_hazards R293). -/
def cleanStore (p : Params) : Prop := ∀ i : StateIdx, cleanWord (controlStoreAt p i) = true

/-- A safe run: no error is recorded. -/
def State.Safe (s : State) : Prop := s.fault = none

end Sys2Proof.Machine
end

