-- ==== Sys2Proof/Certificates/Slice0/Obligations.lean ====
section
/-! DEFINITION. The statements for the provers. `exec i s = .next (s.inFlight f)` says the whole frame of a micro-operation: the
current snapshot, memory and every register of it included, is unchanged, and of the transient only what `f` names changes.
Statements about a step say the frame of a whole cycle. -/

open Sys2Proof Sys2Proof.Machine

/-! ### A. The micro-operations -/

/-- 40_sequencer R132 to R136, with R139: which row IRD and COND select, and the next-state index each puts out; one bit of the
base is replaced, every other bit is the base's. -/
def Obligations.SequencerRowsPutOutTheNextIndex : Prop :=
  (∀ (c : ControlWord) (ir : Word) (m : Microinstruction), select c ir = .ok m →
    m.seq = if c.ird then .seqDispatch
      else if c.cond = 0 then .seqNext c.j
      else if c.cond = 1 then .seqMemwait c.j
      else if c.cond = 2 then .seqBranch c.j
      else .seqAddrmode c.j) ∧
  ∀ (s : State) (j : StateIdx),
    (∃ ns : StateIdx, exec .seqDispatch s = .next (s.inFlight fun c => { c with ns := some ns }) ∧
      ns.toNat = s.ir.toNat / 4096) ∧
    exec (.seqNext j) s = .next (s.inFlight fun c => { c with ns := some j }) ∧
    (∃ ns : StateIdx, exec (.seqMemwait j) s = .next (s.inFlight fun c => { c with ns := some ns }) ∧
      ns.getLsbD 1 = s.ready ∧ ∀ k, k < 6 → k ≠ 1 → ns.getLsbD k = j.getLsbD k) ∧
    (∃ ns : StateIdx, exec (.seqBranch j) s = .next (s.inFlight fun c => { c with ns := some ns }) ∧
      ns.getLsbD 2 = s.ben ∧ ∀ k, k < 6 → k ≠ 2 → ns.getLsbD k = j.getLsbD k) ∧
    (∃ ns : StateIdx, exec (.seqAddrmode j) s = .next (s.inFlight fun c => { c with ns := some ns }) ∧
      ns.getLsbD 0 = s.ir.getLsbD 11 ∧ ∀ k, k < 6 → k ≠ 0 → ns.getLsbD k = j.getLsbD k)

/-- 41_memory_timing R157: with MIO_EN = 0 the idle row is selected, whatever R_W and DATA_SIZE are; it clears the counter and
READY, from any count, and neither reads nor stores. -/
def Obligations.IdleMemoryRowClearsTheCounter : Prop :=
  (∀ (c : ControlWord) (ir : Word) (m : Microinstruction), select c ir = .ok m → c.mioEn = false → m.mem = .memIdle) ∧
  ∀ s : State, exec .memIdle s = .next (s.inFlight fun c => { c with memCnt := some 0, ready := some false })

/-- 41_memory_timing section 1 (ticks; READY is the spec's decision D12): on ticks 1 to 4 every access row counts and sets READY
on the 4th only; it neither reads nor stores. The premise is the invariant of 10_state section 4 less the 5th tick. -/
def Obligations.AccessRowsOnlyCountOnTicksOneToFour : Prop :=
  ∀ (s : State) (i : Instr), i ∈ [Instr.memRdB, .memRdW, .memWrB, .memWrW] → s.memCnt.toNat < 4 →
    ∃ n : BitVec 3, n.toNat = s.memCnt.toNat + 1 ∧
      exec i s = .next (s.inFlight fun c => { c with memCnt := some n, ready := some (decide (n.toNat = 4)) })

/-- 41_memory_timing section 2 and 20_memory section 2 (lanes: the spec's decision D5; READY on tick 5: D12): on the 5th tick a
word read gives both lanes of the word that contains MAR, a byte read the sign-extended byte at MAR. -/
def Obligations.ReadRowsReadOnTheFifthTick : Prop :=
  ∀ s : State, s.memCnt = 4 →
    (∃ v : Word, exec .memRdW s = .next (s.inFlight fun c =>
        { c with memCnt := some 0, ready := some false, readResult := some v }) ∧
      v.toNat = (s.mem.byteAt (2 * (s.mar.toNat / 2))).toNat + 256 * (s.mem.byteAt (2 * (s.mar.toNat / 2) + 1)).toNat) ∧
    (∃ v : Word, exec .memRdB s = .next (s.inFlight fun c =>
        { c with memCnt := some 0, ready := some false, readResult := some v }) ∧
      v.toInt = (s.mem.byteAt s.mar.toNat).toInt)

/-- 41_memory_timing section 2 and 20_memory section 2 (D5, D6, D12): on the 5th tick a word write leaves the two bytes of MDR in
the word that contains MAR, a byte write the low byte of MDR at MAR; every other byte reads as before. The bytes are those of the
memory the pending store gives at the commit. -/
def Obligations.WriteRowsStoreOnTheFifthTick : Prop :=
  ∀ s : State, s.memCnt = 4 → s.mem.wf = true →
    (∃ st : Store, exec .memWrW s = .next (s.inFlight fun c =>
        { c with memCnt := some 0, ready := some false, store := some st }) ∧
      ∀ a : Nat, ((applyStore s.mem (some st)).byteAt a).toNat =
        if a = 2 * (s.mar.toNat / 2) then s.mdr.toNat % 256
        else if a = 2 * (s.mar.toNat / 2) + 1 then s.mdr.toNat / 256
        else (s.mem.byteAt a).toNat) ∧
    (∃ st : Store, exec .memWrB s = .next (s.inFlight fun c =>
        { c with memCnt := some 0, ready := some false, store := some st }) ∧
      ∀ a : Nat, ((applyStore s.mem (some st)).byteAt a).toNat =
        if a = s.mar.toNat then s.mdr.toNat % 256 else (s.mem.byteAt a).toNat)

/-- 42_datapath_units section 1 (the codes are the spec's decision D2): ALU operand A is the register that SR1MUX names,
operand B, under GATE_ALU, the register `IR[2:0]` or the sign-extended immediate as `IR[5]` says. -/
def Obligations.OperandRowsReadTheirRegisterOrImmediate : Prop :=
  (∀ (c : ControlWord) (ir : Word) (m : Microinstruction), select c ir = .ok m →
    m.opA = (if c.sr1Mux then .sr1Ir8_6 else .sr1Ir11_9) ∧
    m.opB = if c.gateAlu then some (if ir.getLsbD 5 then .opbImm5 (ir.extractLsb' 0 5) else .opbReg (ir.extractLsb' 0 3))
      else none) ∧
  ∀ (s : State) (r : RegIdx) (v : BitVec 5),
    exec .sr1Ir11_9 s = .next (s.inFlight fun c => { c with opA := some (s.reg (s.ir.extractLsb' 9 3)) }) ∧
    exec .sr1Ir8_6 s = .next (s.inFlight fun c => { c with opA := some (s.reg (s.ir.extractLsb' 6 3)) }) ∧
    exec (.opbReg r) s = .next (s.inFlight fun c => { c with opB := some (s.reg r) }) ∧
    ∃ w : Word, exec (.opbImm5 v) s = .next (s.inFlight fun c => { c with opB := some w }) ∧ w.toInt = v.toInt

/-- 42_datapath_units R172 to R175: which operation ALUK selects, and each one's result on its operands. -/
def Obligations.AluRowsComputeTheirResult : Prop :=
  (∀ (c : ControlWord) (ir : Word) (m : Microinstruction), select c ir = .ok m →
    m.alu = if c.aluK = 0 then .aluAdd else if c.aluK = 1 then .aluAnd else if c.aluK = 2 then .aluXor else .aluPassa) ∧
  (∀ (s : State) (a : Word), s.cycle.opA = some a →
    exec .aluPassa s = .next (s.inFlight fun c => { c with alu := some a })) ∧
  ∀ (s : State) (a b : Word), s.cycle.opA = some a → s.cycle.opB = some b →
    (∃ v : Word, exec .aluAdd s = .next (s.inFlight fun c => { c with alu := some v }) ∧
      v.toNat = (a.toNat + b.toNat) % 65536) ∧
    (∃ v : Word, exec .aluAnd s = .next (s.inFlight fun c => { c with alu := some v }) ∧
      ∀ k, v.getLsbD k = (a.getLsbD k && b.getLsbD k)) ∧
    (∃ v : Word, exec .aluXor s = .next (s.inFlight fun c => { c with alu := some v }) ∧
      ∀ k, v.getLsbD k = (a.getLsbD k ^^ b.getLsbD k))

/-- 42_datapath_units R176, R177, R178, R180: under GATE_SHF, mode, source and amount come from IR; a left shift multiplies by
2^amount modulo 2^16, the right shifts divide by it, rounding toward minus infinity, the value unsigned or signed. -/
def Obligations.ShifterRowsComputeTheirResult : Prop :=
  (∀ (c : ControlWord) (ir : Word) (m : Microinstruction), select c ir = .ok m → c.gateShf = true →
    (ir.extractLsb' 4 2 = 0 → m.shf = some (.shfLshf (ir.extractLsb' 6 3) (ir.extractLsb' 0 4))) ∧
    (ir.extractLsb' 4 2 = 1 → m.shf = some (.shfRshfl (ir.extractLsb' 6 3) (ir.extractLsb' 0 4))) ∧
    (ir.extractLsb' 4 2 = 3 → m.shf = some (.shfRshfa (ir.extractLsb' 6 3) (ir.extractLsb' 0 4)))) ∧
  ∀ (s : State) (r : RegIdx) (n : BitVec 4),
    (∃ v : Word, exec (.shfLshf r n) s = .next (s.inFlight fun c => { c with shf := some v }) ∧
      v.toNat = ((s.reg r).toNat * 2 ^ n.toNat) % 65536) ∧
    (∃ v : Word, exec (.shfRshfl r n) s = .next (s.inFlight fun c => { c with shf := some v }) ∧
      v.toNat = (s.reg r).toNat / 2 ^ n.toNat) ∧
    (∃ v : Word, exec (.shfRshfa r n) s = .next (s.inFlight fun c => { c with shf := some v }) ∧
      v.toInt = (s.reg r).toInt / 2 ^ n.toNat)

/-- 42_datapath_units sections 2 and 4, 60_exceptions section 1 (the recorded error and its laziness are the spec's decisions
D9, D11, log 20; that it is recorded by a next state is the model's choice, log 4): the two reserved rows are selected exactly
under GATE_SHF and LD_PC, and record their error and nothing else. -/
def Obligations.ReservedRowsRecordTheirError : Prop :=
  (∀ (c : ControlWord) (ir : Word) (m : Microinstruction), select c ir = .ok m →
    (m.shf = some .shfReserved ↔ c.gateShf = true ∧ ir.extractLsb' 4 2 = 2) ∧
    (m.pc = .pcReserved ↔ c.ldPc = true ∧ c.pcMux = 3)) ∧
  ∀ s : State, s.fault = none →
    exec .shfReserved s = .next { s with fault := some .shifterReservedMode, cycle := .idle } ∧
    exec .pcReserved s = .next { s with fault := some .pcMuxReserved, cycle := .idle } ∧
    (s.ir.extractLsb' 4 2 = 2 → exec .gateShf s = .next { s with fault := some .shifterReservedMode, cycle := .idle })

/-- 42_datapath_units section 3 (codes and bit positions are the spec's decisions D2, D4): the four offsets. -/
def Obligations.OffsetRowsSignExtendTheirField : Prop :=
  (∀ (c : ControlWord) (ir : Word) (m : Microinstruction), select c ir = .ok m →
    m.off = if c.addr2Mux = 0 then .addr2Zero else if c.addr2Mux = 1 then .addr2Off6
      else if c.addr2Mux = 2 then .addr2Off9 else .addr2Off11) ∧
  ∀ s : State,
    exec .addr2Zero s = .next (s.inFlight fun c => { c with off := some 0 }) ∧
    (∃ v : Word, exec .addr2Off6 s = .next (s.inFlight fun c => { c with off := some v }) ∧
      v.toInt = (s.ir.extractLsb' 0 6).toInt) ∧
    (∃ v : Word, exec .addr2Off9 s = .next (s.inFlight fun c => { c with off := some v }) ∧
      v.toInt = (s.ir.extractLsb' 0 9).toInt) ∧
    (∃ v : Word, exec .addr2Off11 s = .next (s.inFlight fun c => { c with off := some v }) ∧
      v.toInt = (s.ir.extractLsb' 0 11).toInt)

/-- 42_datapath_units section 3: the offset as it is or doubled modulo 2^16, and the base, PC or `REGS[IR[8:6]]`, by a code that
is the spec's decision D2 (log 17). -/
def Obligations.AdderRowsGiveItsTwoOperands : Prop :=
  (∀ (c : ControlWord) (ir : Word) (m : Microinstruction), select c ir = .ok m →
    m.offShift = (if c.lshf1 then .lshf1On else .lshf1Off) ∧ m.base = (if c.addr1Mux then .addr1Baser else .addr1Pc)) ∧
  (∀ (s : State) (v : Word), s.cycle.off = some v →
    exec .lshf1Off s = .next (s.inFlight fun c => { c with op1 := some v }) ∧
    ∃ w : Word, exec .lshf1On s = .next (s.inFlight fun c => { c with op1 := some w }) ∧
      w.toNat = (2 * v.toNat) % 65536) ∧
  ∀ s : State,
    exec .addr1Pc s = .next (s.inFlight fun c => { c with op2 := some s.pc }) ∧
    exec .addr1Baser s = .next (s.inFlight fun c => { c with op2 := some (s.reg (s.ir.extractLsb' 6 3)) })

/-- 42_datapath_units sections 3 and 4: the MAR-source mux puts out the adder's sum, which wraps at 16 bits, or twice the low byte
of IR, by a code that is the spec's decision D2 (log 17). -/
def Obligations.MarSourceRowsPutOutVectorOrSum : Prop :=
  (∀ (c : ControlWord) (ir : Word) (m : Microinstruction), select c ir = .ok m →
    m.marSrc = if c.marMux then .marmuxAdder else .marmuxVect8) ∧
  (∀ s : State, ∃ v : Word, exec .marmuxVect8 s = .next (s.inFlight fun c => { c with marmuxOut := some v }) ∧
    v.toNat = 2 * (s.ir.toNat % 256)) ∧
  ∀ (s : State) (a b : Word), s.cycle.op1 = some a → s.cycle.op2 = some b →
    ∃ v : Word, exec .marmuxAdder s = .next (s.inFlight fun c => { c with marmuxOut := some v }) ∧
      v.toNat = (a.toNat + b.toNat) % 65536

/-- 43_bus_arbiter (GATE.PC drives the PC register by the spec's decision D7, an undriven bus is D8): one gate puts its unit's
value on the bus, no gate leaves it undriven. -/
def Obligations.GateRowsDriveTheBus : Prop :=
  (∀ (c : ControlWord) (ir : Word) (m : Microinstruction), select c ir = .ok m →
    m.bus = if c.gatePc then .gatePc else if c.gateMdr then .gateMdr else if c.gateAlu then .gateAlu
      else if c.gateMarmux then .gateMarmux else if c.gateShf then .gateShf else .busNone) ∧
  ∀ (s : State) (v : Word),
    exec .busNone s = .next (s.inFlight fun c => { c with bus := none }) ∧
    exec .gatePc s = .next (s.inFlight fun c => { c with bus := some s.pc }) ∧
    exec .gateMdr s = .next (s.inFlight fun c => { c with bus := some s.mdr }) ∧
    (s.cycle.alu = some v → exec .gateAlu s = .next (s.inFlight fun c => { c with bus := some v })) ∧
    (s.cycle.marmuxOut = some v → exec .gateMarmux s = .next (s.inFlight fun c => { c with bus := some v })) ∧
    (s.cycle.shf = some v → s.ir.extractLsb' 4 2 ≠ 2 →
      exec .gateShf s = .next (s.inFlight fun c => { c with bus := some v }))

/-- 44_latch_update section on PC and 42_datapath_units section 4 (codes D2): PC holds, or takes PC + 2 modulo 2^16, the bus
value, or the adder's sum. -/
def Obligations.PcRowsGiveTheNextPc : Prop :=
  (∀ (c : ControlWord) (ir : Word) (m : Microinstruction), select c ir = .ok m →
    (c.ldPc = false → m.pc = .pcHold) ∧ (c.ldPc = true → c.pcMux = 0 → m.pc = .pcInc2) ∧
    (c.ldPc = true → c.pcMux = 1 → m.pc = .pcBus) ∧ (c.ldPc = true → c.pcMux = 2 → m.pc = .pcAdder)) ∧
  (∀ s : State, exec .pcHold s = .next (s.inFlight fun c => { c with pc := none }) ∧
    ∃ v : Word, exec .pcInc2 s = .next (s.inFlight fun c => { c with pc := some v }) ∧
      v.toNat = (s.pc.toNat + 2) % 65536) ∧
  (∀ (s : State) (v : Word), s.cycle.bus = some v →
    exec .pcBus s = .next (s.inFlight fun c => { c with pc := some v })) ∧
  ∀ (s : State) (a b : Word), s.cycle.op1 = some a → s.cycle.op2 = some b →
    ∃ v : Word, exec .pcAdder s = .next (s.inFlight fun c => { c with pc := some v }) ∧
      v.toNat = (a.toNat + b.toNat) % 65536

/-- 44_latch_update, the loads from the bus: each load-enable selects its row, and the register takes all 16 bits of the bus
value. That LD.REG's destination is `IR[11:9]` or register 7 by DRMUX's code is the spec's decision D2 (log 17); that an
undriven bus is an error is D8 (log 19), its effect D9 (log 20), shown as a next state (log 4). -/
def Obligations.LoadRowsTakeTheBusValue : Prop :=
  (∀ (c : ControlWord) (ir : Word) (m : Microinstruction), select c ir = .ok m →
    m.ldMar = (if c.ldMar then some .ldMar else none) ∧ m.ldIr = (if c.ldIr then some .ldIr else none) ∧
    (c.mioEn = false → m.ldMdr = if c.ldMdr then some .ldMdrBus else none) ∧
    m.ldReg = if c.ldReg then some (if c.drMux then .ldRegR7 else .ldRegIr) else none) ∧
  (∀ (s : State) (v : Word), s.cycle.bus = some v →
    exec .ldMar s = .next (s.inFlight fun c => { c with mar := some v }) ∧
    exec .ldIr s = .next (s.inFlight fun c => { c with ir := some v }) ∧
    exec .ldMdrBus s = .next (s.inFlight fun c => { c with mdr := some v }) ∧
    exec .ldRegIr s = .next (s.inFlight fun c => { c with reg := some (s.ir.extractLsb' 9 3, v) }) ∧
    exec .ldRegR7 s = .next (s.inFlight fun c => { c with reg := some (7, v) })) ∧
  ∀ (s : State) (i : Instr), i ∈ [Instr.ldMar, .ldIr, .ldMdrBus, .ldRegIr, .ldRegR7] → s.fault = none → s.cycle.bus = none →
    exec i s = .next { s with fault := some .busUndriven, cycle := .idle }

/-- 43_bus_arbiter and 60_exceptions section 1 (the spec's decisions D8, D9; a next state, log 4): every consumer of an
undriven bus records `BusUndriven` and changes nothing else. -/
def Obligations.ConsumersOfAnUndrivenBusRecordTheError : Prop :=
  ∀ (s : State) (i : Instr), s.fault = none → s.cycle.bus = none →
    ((i ∈ [Instr.pcBus, .ldMar, .ldIr, .ldMdrBus, .ldCc, .ldRegIr, .ldRegR7]) ↔
      exec i s = .next { s with fault := some .busUndriven, cycle := .idle })

/-- 44_latch_update, the MDR load under MIO_EN (the case without a completed read is the spec's decision D13): MDR takes the read
result of this cycle if there is one, and is otherwise carried over; the bus is not read. -/
def Obligations.MdrLoadFromMemoryTakesTheReadResult : Prop :=
  (∀ (c : ControlWord) (ir : Word) (m : Microinstruction), select c ir = .ok m → c.mioEn = true →
    m.ldMdr = if c.ldMdr then some .ldMdrMem else none) ∧
  ∀ s : State,
    (∀ v : Word, s.cycle.readResult = some v →
      exec .ldMdrMem s = .next (s.inFlight fun c => { c with mdr := some v })) ∧
    (s.cycle.readResult = none → exec .ldMdrMem s = .next (s.inFlight fun c => { c with mdr := none }))

/-- 44_latch_update, LD.CC: LD_CC selects the row; the three flags are loaded together from the bus value, N for a negative, Z for
a zero and P for any other value. That an undriven bus is an error is the spec's decision D8 (log 19), its effect D9 (log 20),
shown as a next state (log 4). -/
def Obligations.FlagLoadSetsExactlyTheFlagOfTheBusValue : Prop :=
  (∀ (c : ControlWord) (ir : Word) (m : Microinstruction), select c ir = .ok m →
    m.ldCc = if c.ldCc then some .ldCc else none) ∧
  (∀ (s : State) (v : Word), s.cycle.bus = some v →
    exec .ldCc s = .next (s.inFlight fun c =>
      { c with flags := some (decide (v.toInt < 0), decide (v.toInt = 0), decide (0 < v.toInt)) })) ∧
  ∀ s : State, s.fault = none → s.cycle.bus = none →
    exec .ldCc s = .next { s with fault := some .busUndriven, cycle := .idle }

/-- 44_latch_update, LD.BEN (the or is the spec's decision D19): with exactly one flag set, BEN is the bit of IR that masks
that flag; the bus is not read. -/
def Obligations.BranchEnableLoadTestsTheSetFlag : Prop :=
  (∀ (c : ControlWord) (ir : Word) (m : Microinstruction), select c ir = .ok m →
    m.ldBen = if c.ldBen then some .ldBen else none) ∧
  ∀ s : State, s.oneFlag = true →
    exec .ldBen s = .next (s.inFlight fun c =>
      { c with ben := some (s.ir.getLsbD (if s.n then 11 else if s.z then 10 else 9)) })

/-! ### B. Encoding -/

/-- 30_encoding section 1 (the packing is the spec's decision D1): reading and writing a control word as 35 bits are inverse to
each other, and a number of more than 35 bits is refused. -/
def Obligations.ControlWordPackingIsABijection : Prop :=
  (∀ w : BitVec 35, (ControlWord.ofBits w).toBits = w) ∧
  (∀ c : ControlWord, ControlWord.ofBits c.toBits = c) ∧
  (∀ c : ControlWord, decodeControlWord c.toBits.toNat = .ok c) ∧
  ∀ w : Nat, 2 ^ 35 ≤ w → decodeControlWord w = .error .wider

/-- 30_encoding sections 2 and 4: what the encoder writes for a well-formed selection decodes to that selection, every slot and
operand of it, through the 35-bit form too. -/
def Obligations.EncodedSelectionDecodesToItself : Prop :=
  ∀ m : Microinstruction, m.wellFormed = true →
    select (encode m).1 (encode m).2 = .ok m ∧
    decodeControlWord (encode m).1.toBits.toNat = .ok (encode m).1

/-- 30_encoding section 4: the rows a word and IR select are exactly the rows of opcode_table.json that apply to them, those of
format IR under the gate they require. -/
def Obligations.SelectedRowsAreTheTableRowsThatApply : Prop :=
  ∀ (c : ControlWord) (ir : Word) (m : Microinstruction), select c ir = .ok m →
    (∀ i ∈ m.ops, i.row.applies c ir = true ∧ i.requirement c = true) ∧
    ∀ i : Instr, i.row.applies c ir = true → i.requirement c = true → ∃ k ∈ m.ops, k.row = i.row

/-- 30_encoding sections 4 and 5: a word selects nothing exactly when two or more gates are set, whatever IR holds; and what is
selected is well-formed. -/
def Obligations.SelectionFailsExactlyOnTwoGates : Prop :=
  ∀ (c : ControlWord) (ir : Word),
    (select c ir = .error .multipleBusDrivers ↔ 2 ≤ Reference.gateCount c) ∧
    (Reference.gateCount c ≤ 1 ↔ ∃ m, select c ir = .ok m ∧ m.wellFormed = true)

/-- 30_encoding section 6 (the example of the notation) and 95_test_vectors section 4: words written out from the packing decode
to the record the spec writes beside them. A sanity statement. -/
def Obligations.WordsOfTheSpecDecode : Prop :=
  decodeControlWord 0b00010000110000011000000000000000000 =
    .ok { ControlWord.zero with gatePc := true, ldMar := true, ldPc := true, j := 33 } ∧
  decodeControlWord 0b00101110001001001000000100000001010 =
    .ok { ControlWord.zero with mioEn := true, dataSize := true, ldMdr := true, cond := 1, j := 28, gatePc := true,
                                ldReg := true, drMux := true } ∧
  decodeControlWord 0b00001001000001011000010100110000001 =
    .ok { ControlWord.zero with gatePc := true, ldReg := true, drMux := true, ldPc := true, pcMux := 2, addr2Mux := 3,
                                lshf1 := true, j := 18 } ∧
  decodeControlWord 0b10000000000010000000000000000000000 = .ok { ControlWord.zero with ldBen := true, ird := true }

/-! ### C. The cycle -/

/-- 45_cycle: on a machine that runs, a step is the run of the rows that the latched word and IR select, and the commit; a word
that selects nothing records `MultipleBusDrivers`. That rows run one after another, in an order, on an idle transient, and that
the erring word answers a next state, is the model's own way to do it (log 1 to 4). -/
def Obligations.StepRunsTheSelectedRows : Prop :=
  ∀ s : State, s.Running →
    (∀ m, select s.cw s.ir = .ok m → step s = finishCycle (runOps m.ops { s with cycle := .idle })) ∧
    (∀ r, select s.cw s.ir = .error r → step s = .next { s with fault := some .multipleBusDrivers, cycle := .idle }) ∧
    ∀ (i : Instr) (rest : List Instr) (t u : State), exec i t = .next u →
      runOps (i :: rest) t = if u.fault.isSome then .next u else runOps rest u

/-- 45_cycle R251: the composition of the micro-operations is the spec's step function, written down as it stands there. A
`faulted(e)` of R251 that records e is a next state with FAULT = e, one that finds e recorded a fault; `halted` is the state
itself (log 4, 5). -/
def Obligations.StepAgreesWithTheSpecsStepFunction : Prop :=
  ∀ s : State,
    match Reference.referenceStep s with
    | .halted => step s = .next s
    | .faulted e =>
      (s.fault = none → step s = .next { s with fault := some e, cycle := .idle }) ∧
      (s.fault ≠ none → s.fault = some e ∧ step s = .fault e)
    | .next t bus => step s = .next t ∧ t.lastBus = bus

/-- 45_cycle, the halt (`halted` as an unchanged next state is the model's choice, log 5): at the sentinel nothing changes,
however often the machine is stepped, and the status is halted; off it the machine is not halted. -/
def Obligations.HaltedMachineNeverChanges : Prop :=
  ∀ s : State, s.fault = none →
    (s.pc = s.params.haltPc → s.status = .halted ∧ ∀ k : Nat, core.run k s = .next s) ∧
    (s.pc ≠ s.params.haltPc → s.status = .running)

/-- 60_exceptions section 1 and 45_cycle (the spec's decisions D9, D22; log 20): a recorded error stops every later step, at the
sentinel too. That nothing else stops one is the model's choice: an erring cycle (log 4) and a halted step (log 5) answer a next
state. No step refuses. -/
def Obligations.StepsStopExactlyOnARecordedError : Prop :=
  ∀ s : State,
    (∀ e, step s = .fault e ↔ s.fault = some e) ∧
    (s.fault = none ↔ ∃ t, step s = .next t) ∧
    (∀ e, s.fault = some e → s.status = .faulted e) ∧
    ∀ r, step s ≠ .refused r

/-- 60_exceptions section 1 (effect, priority, the reserved codes and the undriven bus are the spec's decisions D9, D10, D11,
D8; log 20, 19; a next state, log 4): a cycle records the error of lowest code whose condition holds and changes nothing else;
without one it commits a state with no error. -/
def Obligations.ErringCycleRecordsTheLowestCodeOnly : Prop :=
  ∀ s : State, s.Running →
    (2 ≤ Reference.gateCount s.cw → step s = .next { s with fault := some .multipleBusDrivers, cycle := .idle }) ∧
    (Reference.gateCount s.cw ≤ 1 → s.cw.gateShf = true → s.ir.extractLsb' 4 2 = 2 →
      step s = .next { s with fault := some .shifterReservedMode, cycle := .idle }) ∧
    (Reference.gateCount s.cw ≤ 1 → ¬(s.cw.gateShf = true ∧ s.ir.extractLsb' 4 2 = 2) → s.cw.ldPc = true → s.cw.pcMux = 3 →
      step s = .next { s with fault := some .pcMuxReserved, cycle := .idle }) ∧
    (Reference.gateCount s.cw = 0 → ¬(s.cw.ldPc = true ∧ s.cw.pcMux = 3) → Reference.needsBus s.cw = true →
      step s = .next { s with fault := some .busUndriven, cycle := .idle }) ∧
    (Reference.gateCount s.cw ≤ 1 → ¬(s.cw.gateShf = true ∧ s.ir.extractLsb' 4 2 = 2) →
      ¬(s.cw.ldPc = true ∧ s.cw.pcMux = 3) → ¬(Reference.gateCount s.cw = 0 ∧ Reference.needsBus s.cw = true) →
      ∃ t, step s = .next t ∧ t.fault = none)

/-- 44_latch_update, the carry-over: what no load-enable of the word names is carried over unchanged by the step, the seven
general registers that LD_REG does not select included (DRMUX's code, which selects it, is the spec's decision D2; log 17). -/
def Obligations.UnselectedRegistersAreCarriedOver : Prop :=
  ∀ s t : State, step s = .next t →
    (s.cw.ldMar = false → t.mar = s.mar) ∧ (s.cw.ldIr = false → t.ir = s.ir) ∧ (s.cw.ldPc = false → t.pc = s.pc) ∧
    (s.cw.ldMdr = false → t.mdr = s.mdr) ∧ (s.cw.ldCc = false → t.n = s.n ∧ t.z = s.z ∧ t.p = s.p) ∧
    (s.cw.ldBen = false → t.ben = s.ben) ∧
    ∀ r : RegIdx, (s.cw.ldReg = false ∨ r ≠ (if s.cw.drMux then 7 else s.ir.extractLsb' 9 3)) → t.reg r = s.reg r

/-- 40_sequencer R137: a cycle that commits latches the next index and the word of that row together. -/
def Obligations.CommittingStepLatchesIndexAndWord : Prop :=
  ∀ s t : State, s.Running → step s = .next t → t.fault = none →
    t.stateIdx = Reference.nextIndex s ∧ t.cw = controlStoreAt s.params (Reference.nextIndex s)

/-- 20_memory and 41_memory_timing section 2 (the spec's decisions D5, D6, D21; log 18, 21); that an erring cycle stores nothing
is D9 (log 20), shown on a next state (log 4): memory changes only in a committing cycle that is the 5th tick of a write, and
then only the bytes of the store: the word that contains MAR, or the byte at MAR. -/
def Obligations.MemoryChangesOnlyByAFifthTickWrite : Prop :=
  ∀ s t : State, s.mem.wf = true → step s = .next t →
    (¬(s.cw.mioEn = true ∧ s.cw.rW = true ∧ s.memCnt = 4) → t.mem = s.mem) ∧
    (t.fault ≠ none → t.mem = s.mem) ∧
    (∀ a : Nat, (if s.cw.dataSize then a / 2 ≠ s.mar.toNat / 2 else a ≠ s.mar.toNat) → t.mem.byteAt a = s.mem.byteAt a) ∧
    (s.Running → t.fault = none → s.cw.mioEn = true → s.cw.rW = true → s.memCnt = 4 →
      (s.cw.dataSize = true → t.mem.readWord s.mar = s.mdr) ∧
      (s.cw.dataSize = false → (t.mem.byteAt s.mar.toNat).toNat = s.mdr.toNat % 256))

/-- 10_state section 3 and 40_sequencer section 1: no step changes a parameter; the control store above all is read-only. -/
def Obligations.StepsNeverChangeTheParameters : Prop :=
  ∀ s t : State, step s = .next t → t.params = s.params ∧ ∀ i, controlStoreAt t.params i = controlStoreAt s.params i

/-- 10_state section 4: the latched word is the row of STATE, exactly one flag is set, MEMCNT is at most 4 with READY set exactly
at 4, memory is canonical and no cycle is under way: every step keeps all of it. -/
def Obligations.EveryStepKeepsTheInvariant : Prop :=
  ∀ s t : State, s.wellFormed = true → step s = .next t → t.wellFormed = true

/-- 20_memory section 1: the memory's canonical form alone is kept by every step, from any state. -/
def Obligations.EveryStepKeepsMemoryCanonical : Prop :=
  ∀ s t : State, s.mem.wf = true → step s = .next t → t.mem.wf = true

/-- 10_state section 6: the state after reset meets the invariant, and so does the reset under any parameters. -/
def Obligations.ResetMeetsTheInvariant : Prop :=
  State.reset.wellFormed = true ∧ ∀ p : Params, (resetWith p).wellFormed = true

/-- 10_state section 6: the values after reset, under any parameters. The zeros and Z = 1 are the spec's decision D14 (log 12),
the undriven last bus value the model's choice (log 13). -/
def Obligations.ResetValuesUnderAnyParameters : Prop :=
  (∀ p : Params,
    let s := resetWith p
    s.pc = p.resetPc ∧ s.ir = 0 ∧ s.mar = 0 ∧ s.mdr = 0 ∧ s.n = false ∧ s.z = true ∧ s.p = false ∧ s.ben = false ∧
    s.ready = false ∧ (∀ r, s.reg r = 0) ∧ s.stateIdx = p.initialState ∧ s.cw = controlStoreAt p p.initialState ∧
    s.memCnt = 0 ∧ s.mem = Memory.ofImage p.memImage ∧ s.fault = none ∧ s.lastBus = none ∧ s.params = p ∧
    s.cycle = .idle) ∧
  State.reset = resetWith Params.default ∧ ∀ a : Nat, State.reset.mem.byteAt a = 0

/-- The wait word of 41_memory_timing section 3: MIO_EN, COND = 1, J the row itself. -/
def waitWord (row : StateIdx) (write wide : Bool) : ControlWord :=
  { ControlWord.zero with mioEn := true, cond := 1, j := row, rW := write, dataSize := wide, ldMdr := !write }

/-- 41_memory_timing section 3: a read held by its wait loop asserts READY with the 4th cycle, MDR unchanged until then, and has
the data in MDR after the 5th, the counter 0 and the state the row two above; every other register, memory and the parameters
are as they were. READY's fall is the spec's decision D12 and the MDR kept until then D13 (log 21), the lanes and the address
are D5 and D6 (log 18). Wait words with other fields are `AnyWaitWordTakesFiveCycles`. -/
def Obligations.WaitLoopReadTakesFiveCycles : Prop :=
  ∀ (s : State) (row : StateIdx) (wide : Bool), s.Running → row.getLsbD 1 = false → s.cw = waitWord row false wide →
    controlStoreAt s.params row = waitWord row false wide → s.memCnt = 0 → s.ready = false →
    (∀ k : Nat, 1 ≤ k → k ≤ 4 → core.run k s = .next
      { s with memCnt := BitVec.ofNat 3 k, ready := decide (k = 4), stateIdx := row, lastBus := none, cycle := .idle }) ∧
    ∃ v : Word,
      core.run 5 s = .next
        { s with mdr := v, memCnt := 0, ready := false, stateIdx := row ||| 2, cw := controlStoreAt s.params (row ||| 2),
                 lastBus := none, cycle := .idle } ∧
      (wide = true → v.toNat = (s.mem.byteAt (2 * (s.mar.toNat / 2))).toNat +
        256 * (s.mem.byteAt (2 * (s.mar.toNat / 2) + 1)).toNat) ∧
      (wide = false → v.toInt = (s.mem.byteAt s.mar.toNat).toInt)

/-- 41_memory_timing section 3: a write held by its wait loop leaves memory alone for four cycles and stores in the 5th; all else
is as for a read, and MDR keeps its value. READY's fall is the spec's decision D12 (log 21), the stored bytes are D5 and D6
(log 18). -/
def Obligations.WaitLoopWriteTakesFiveCycles : Prop :=
  ∀ (s : State) (row : StateIdx) (wide : Bool), s.Running → row.getLsbD 1 = false → s.cw = waitWord row true wide →
    controlStoreAt s.params row = waitWord row true wide → s.memCnt = 0 → s.ready = false → s.mem.wf = true →
    (∀ k : Nat, 1 ≤ k → k ≤ 4 → core.run k s = .next
      { s with memCnt := BitVec.ofNat 3 k, ready := decide (k = 4), stateIdx := row, lastBus := none, cycle := .idle }) ∧
    ∃ mem : Memory,
      core.run 5 s = .next
        { s with mem := mem, memCnt := 0, ready := false, stateIdx := row ||| 2, cw := controlStoreAt s.params (row ||| 2),
                 lastBus := none, cycle := .idle } ∧
      ∀ a : Nat, (mem.byteAt a).toNat =
        if wide = true ∧ a = 2 * (s.mar.toNat / 2) ∨ wide = false ∧ a = s.mar.toNat then s.mdr.toNat % 256
        else if wide = true ∧ a = 2 * (s.mar.toNat / 2) + 1 then s.mdr.toNat / 256
        else (s.mem.byteAt a).toNat

/-- 41_memory_timing section 3 (the spec's decision D21): a committing cycle with MIO_EN = 0 abandons an access from any count:
counter and READY cleared, memory unchanged, MDR changed by nothing but a bus load. -/
def Obligations.DroppedAccessHasNoEffect : Prop :=
  ∀ s t : State, s.Running → s.cw.mioEn = false → step s = .next t → t.fault = none →
    t.memCnt = 0 ∧ t.ready = false ∧ t.mem = s.mem ∧
    t.mdr = if s.cw.ldMdr then t.lastBus.getD s.mdr else s.mdr

/-- 30_encoding section 2 (derived by the spec): a field that the word does not route to the state does not change a committing
cycle. -/
def Obligations.UnreadFieldsDoNotChangeTheCycle : Prop :=
  ∀ s : State, s.Running → Reference.errorOf s.cw s.ir = none →
    (∀ (x : BitVec 2) (y : StateIdx), s.cw.ird = true → step { s with cw := { s.cw with cond := x, j := y } } = step s) ∧
    (∀ x : BitVec 2, s.cw.ldPc = false → step { s with cw := { s.cw with pcMux := x } } = step s) ∧
    (∀ x : Bool, s.cw.ldReg = false → step { s with cw := { s.cw with drMux := x } } = step s) ∧
    (∀ (x : Bool) (y : BitVec 2), s.cw.gateAlu = false →
      step { s with cw := { s.cw with sr1Mux := x, aluK := y } } = step s) ∧
    (∀ (x z : Bool) (y : BitVec 2), ¬(s.cw.ldPc = true ∧ s.cw.pcMux = 2) → ¬(s.cw.gateMarmux = true ∧ s.cw.marMux = true) →
      step { s with cw := { s.cw with addr1Mux := x, addr2Mux := y, lshf1 := z } } = step s) ∧
    (∀ x : Bool, s.cw.gateMarmux = false → step { s with cw := { s.cw with marMux := x } } = step s) ∧
    (∀ x y : Bool, ¬(s.cw.mioEn = true ∧ s.memCnt = 4) → step { s with cw := { s.cw with rW := x, dataSize := y } } = step s)

/-- 43_bus_arbiter (derived by the spec): every consumer enabled in a committing cycle receives the bus value of that cycle. -/
def Obligations.EveryConsumerReceivesTheSameBusValue : Prop :=
  ∀ s t : State, s.Running → step s = .next t → t.fault = none →
    (s.cw.ldMar = true → t.lastBus = some t.mar) ∧
    (s.cw.ldIr = true → t.lastBus = some t.ir) ∧
    (s.cw.ldMdr = true → s.cw.mioEn = false → t.lastBus = some t.mdr) ∧
    (s.cw.ldReg = true → t.lastBus = some (t.reg (if s.cw.drMux then 7 else s.ir.extractLsb' 9 3))) ∧
    (s.cw.ldPc = true → s.cw.pcMux = 1 → t.lastBus = some t.pc) ∧
    (s.cw.ldCc = true → ∃ v : Word, t.lastBus = some v ∧ t.n = decide (v.toInt < 0) ∧ t.z = decide (v.toInt = 0) ∧
      t.p = decide (0 < v.toInt))

/-- 43_bus_arbiter (the PC gate is D7, the undriven bus D8, its report D26): what the bus carries in a committing cycle, by the
gate set. -/
def Obligations.BusCarriesTheValueOfTheGatedUnit : Prop :=
  ∀ s t : State, s.Running → step s = .next t → t.fault = none →
    (s.cw.gatePc = true → t.lastBus = some s.pc) ∧
    (s.cw.gateMdr = true → t.lastBus = some s.mdr) ∧
    (s.cw.gateAlu = true → t.lastBus = some (Reference.aluOut s)) ∧
    (s.cw.gateMarmux = true → t.lastBus = some (Reference.marmuxOut s)) ∧
    (s.cw.gateShf = true → ∃ v, Reference.shfOut s = some v ∧ t.lastBus = some v) ∧
    (Reference.gateCount s.cw = 0 → t.lastBus = none)

/-- 70_reset_and_hazards section 1 (derived by the spec; the errors are its decisions D8, D9, D11, log 19, 20, shown on a next
state, log 4): under a clean control store the one error a run can meet is the shifter's, and only where the shifter is gated in
its reserved mode. -/
def Obligations.CleanControlStoreLeavesOnlyTheShifterError : Prop :=
  ∀ s t : State, s.fault = none → s.wordLatched = true → cleanStore s.params → step s = .next t →
    t.fault = none ∨ (t.fault = some .shifterReservedMode ∧ s.cw.gateShf = true ∧ s.ir.extractLsb' 4 2 = 2)

/-- 42_datapath_units section 1 and 44_latch_update, composed: a microinstruction that gates an ALU addition into a register with
the flags (95_test_vectors, UCODE-F row 1), for every operand form and every destination, register 0 and 7 too, with all of the
next state. The codes of SR1MUX, IR[5] and DRMUX are the spec's decision D2 (log 17). -/
def Obligations.AddMicroinstructionWritesSumAndFlags : Prop :=
  ∀ (s : State) (j : StateIdx), s.Running →
    s.cw = { ControlWord.zero with gateAlu := true, sr1Mux := true, ldReg := true, ldCc := true, j := j } →
    ∃ (t : State) (b v : Word), step s = .next t ∧
      (s.ir.getLsbD 5 = false → b = s.reg (s.ir.extractLsb' 0 3)) ∧
      (s.ir.getLsbD 5 = true → b.toInt = (s.ir.extractLsb' 0 5).toInt) ∧
      v.toNat = ((s.reg (s.ir.extractLsb' 6 3)).toNat + b.toNat) % 65536 ∧
      t.reg (s.ir.extractLsb' 9 3) = v ∧ (∀ r, r ≠ s.ir.extractLsb' 9 3 → t.reg r = s.reg r) ∧
      t.n = decide (v.toInt < 0) ∧ t.z = decide (v.toInt = 0) ∧ t.p = decide (0 < v.toInt) ∧
      t.stateIdx = j ∧ t.cw = controlStoreAt s.params j ∧ t.memCnt = 0 ∧ t.ready = false ∧ t.lastBus = some v ∧
      t.pc = s.pc ∧ t.ir = s.ir ∧ t.mar = s.mar ∧ t.mdr = s.mdr ∧ t.ben = s.ben ∧ t.mem = s.mem ∧ t.params = s.params ∧
      t.fault = none ∧ t.cycle = .idle

/-- 70_reset_and_hazards section 2 (derived by the spec): a cycle tests and computes on the old IR, flags and BEN even when it
loads new ones. -/
def Obligations.LoadsOfACycleAreNotSeenByItsTests : Prop :=
  ∀ s t : State, s.Running → step s = .next t → t.fault = none →
    (s.cw.ird = true → t.stateIdx.toNat = s.ir.toNat / 4096) ∧
    (s.cw.ird = false → s.cw.cond = 2 → t.stateIdx.getLsbD 2 = s.ben) ∧
    (s.cw.ird = false → s.cw.cond = 1 → t.stateIdx.getLsbD 1 = s.ready) ∧
    (s.cw.ird = false → s.cw.cond = 3 → t.stateIdx.getLsbD 0 = s.ir.getLsbD 11) ∧
    (s.cw.ldBen = true → s.oneFlag = true → t.ben = s.ir.getLsbD (if s.n then 11 else if s.z then 10 else 9))

/-- 43_bus_arbiter and 42_datapath_units, composed (95_test_vectors P4): the word that gates PC into MAR and increments PC moves
both from the old PC, with all of the next state; if PC + 2 is the sentinel the machine halts with it (70_reset_and_hazards
section 2). That GATE_PC drives the PC register is the spec's decision D7 (log 19), PCMUX's code D2 (log 17). -/
def Obligations.FetchWordMovesPcToMarAndIncrements : Prop :=
  ∀ (s : State) (j : StateIdx), s.Running →
    s.cw = { ControlWord.zero with gatePc := true, ldMar := true, ldPc := true, j := j } →
    ∃ t : State, step s = .next t ∧ t.mar = s.pc ∧ t.pc.toNat = (s.pc.toNat + 2) % 65536 ∧ t.lastBus = some s.pc ∧
      t.stateIdx = j ∧ t.cw = controlStoreAt s.params j ∧ t.memCnt = 0 ∧ t.ready = false ∧
      (∀ r, t.reg r = s.reg r) ∧ t.mem = s.mem ∧ t.ir = s.ir ∧ t.mdr = s.mdr ∧ t.n = s.n ∧ t.z = s.z ∧ t.p = s.p ∧
      t.ben = s.ben ∧ t.params = s.params ∧ t.fault = none ∧ t.cycle = .idle ∧
      (s.params.haltPc.toNat = (s.pc.toNat + 2) % 65536 → t.status = .halted)

/-! ### D. Memory and the host -/

/-- 20_memory sections 2 and 3 (lanes D5, the ignored bit D6): a word written reads back at both addresses of the word and not at
others, a byte write changes one lane of it, a byte read sign-extends. -/
def Obligations.MemoryReadsBackWhatWasWritten : Prop :=
  ∀ (m : Memory) (a b v : Word), m.wf = true →
    (m.writeWord a v).readWord b = (if b.toNat / 2 = a.toNat / 2 then v else m.readWord b) ∧
    ((m.writeByte a v).byteAt b.toNat).toNat = (if b = a then v.toNat % 256 else (m.byteAt b.toNat).toNat) ∧
    (m.writeByte a v).readByte a = (v.extractLsb' 0 8).signExtend 16 ∧
    m.readWord (a ^^^ 1) = m.readWord a ∧ m.writeWord (a ^^^ 1) v = m.writeWord a v

/-- 20_memory R76: the words of an image stand at the addresses from the load address up, bit 0 of it ignored, every byte outside
them is zero; an image that passes the memory bound is refused. -/
def Obligations.ImageWordsStandInMemoryAtReset : Prop :=
  ∀ (base : Word) (words : List Word),
    (32768 < base.toNat / 2 + words.length → imagePlacements base words = none) ∧
    ∀ image, imagePlacements base words = some image →
      (∀ (k : Nat) (h : k < words.length),
        (Memory.ofImage image).readWord (base + BitVec.ofNat 16 (2 * k)) = words[k]) ∧
      ∀ a : Nat, (a / 2 < base.toNat / 2 ∨ base.toNat / 2 + words.length ≤ a / 2) → (Memory.ofImage image).byteAt a = 0

/-- 45_cycle (host operations): a run request takes a step while the machine runs and cycles are left, and nothing else; so
running for N cycles is N steps that stop early at the end of the run, and a request while halted or faulted is a no-op. "Run
until halt" answers the state that running for as many cycles reaches, if that ends the run. That a running machine always
answers a next state is the model's choice: a cycle that raises an error does too (log 4). -/
def Obligations.RunForStopsAtTheEndOfTheRun : Prop :=
  ∀ (s : State) (j k : Nat),
    (∀ t, s.status = .running → step s = .next t →
      runFor (k + 1) s = runFor k t ∧ runUntilEnd (k + 1) s = runUntilEnd k t) ∧
    (s.status = .running → ∃ t, step s = .next t) ∧
    runFor 0 s = s ∧ (s.status = .running → runUntilEnd 0 s = none) ∧
    (s.status ≠ .running → runFor k s = s ∧ runUntilEnd k s = some s) ∧
    runFor (j + k) s = runFor k (runFor j s) ∧
    (∀ t, runUntilEnd k s = some t ↔ t.status ≠ .running ∧ runFor k s = t)

/-- 41_memory_timing section 3, for any word that holds a wait loop while it does other work (95_test_vectors, UCODE-F row 28), as
long as it loads none of MAR, IR and PC and can raise no error: the access takes its five cycles, and the general register that
GATE_PC and LD_REG name holds PC after each. READY is the spec's decision D12, MDR kept D13 (log 21), lanes and address D5 and
D6 (log 18), GATE_PC D7 (log 19), DRMUX's code D2 (log 17). -/
def Obligations.AnyWaitWordTakesFiveCycles : Prop :=
  ∀ (s : State) (row : StateIdx), s.Running → row.getLsbD 1 = false →
    s.cw.ird = false → s.cw.cond = 1 → s.cw.j = row → s.cw.mioEn = true →
    s.cw.ldMar = false → s.cw.ldIr = false → s.cw.ldPc = false → Reference.errorOf s.cw s.ir = none →
    controlStoreAt s.params row = s.cw → s.memCnt = 0 → s.ready = false → s.mem.wf = true →
    let other (t : State) : Prop :=
      t.mar = s.mar ∧ t.ir = s.ir ∧ t.pc = s.pc ∧ t.fault = none ∧ t.params = s.params ∧
      (s.cw.ldCc = false → t.n = s.n ∧ t.z = s.z ∧ t.p = s.p) ∧ (s.cw.ldBen = false → t.ben = s.ben) ∧
      (∀ r : RegIdx, (s.cw.ldReg = false ∨ r ≠ (if s.cw.drMux then 7 else s.ir.extractLsb' 9 3)) → t.reg r = s.reg r) ∧
      (s.cw.gatePc = true → s.cw.ldReg = true → t.reg (if s.cw.drMux then 7 else s.ir.extractLsb' 9 3) = s.pc)
    (∀ k : Nat, 1 ≤ k → k ≤ 4 → ∃ t : State, core.run k s = .next t ∧ t.memCnt.toNat = k ∧ t.ready = decide (k = 4) ∧
      t.stateIdx = row ∧ t.cw = s.cw ∧ t.mdr = s.mdr ∧ t.mem = s.mem ∧ other t) ∧
    ∃ t : State, core.run 5 s = .next t ∧ t.memCnt = 0 ∧ t.ready = false ∧ t.stateIdx = row ||| 2 ∧
      t.cw = controlStoreAt s.params (row ||| 2) ∧ other t ∧
      (s.cw.rW = false → t.mem = s.mem ∧
        (s.cw.ldMdr = false → t.mdr = s.mdr) ∧
        (s.cw.ldMdr = true → s.cw.dataSize = true → t.mdr.toNat = (s.mem.byteAt (2 * (s.mar.toNat / 2))).toNat +
          256 * (s.mem.byteAt (2 * (s.mar.toNat / 2) + 1)).toNat) ∧
        (s.cw.ldMdr = true → s.cw.dataSize = false → t.mdr.toInt = (s.mem.byteAt s.mar.toNat).toInt)) ∧
      (s.cw.rW = true → t.mdr = s.mdr ∧ ∀ a : Nat, (t.mem.byteAt a).toNat =
        if s.cw.dataSize = true ∧ a = 2 * (s.mar.toNat / 2) ∨ s.cw.dataSize = false ∧ a = s.mar.toNat then s.mdr.toNat % 256
        else if s.cw.dataSize = true ∧ a = 2 * (s.mar.toNat / 2) + 1 then s.mdr.toNat / 256
        else (s.mem.byteAt a).toNat)
end

