-- ==== Sys2Proof/Laws/Memory.lean ====
section
/-! SUPPORT. The laws of the memory array: read after write, untouched bytes, and the canonical form kept by every operation. -/

namespace Sys2Proof.Machine

open Sys2Proof

theorem Memory.byteAt_of_lt {m : Memory} {lo k : Nat} (h : m.wfFrom lo = true) (hk : k < lo) : m.byteAt k = 0 := by
  induction m generalizing lo with
  | nil => rfl
  | cons c rest ih =>
    obtain ⟨a, v⟩ := c
    simp only [wfFrom, Bool.and_eq_true, decide_eq_true_eq] at h
    simp only [byteAt]
    rw [if_neg (by omega)]
    exact ih h.2 (by omega)

/-- A byte just stored reads back. -/
theorem Memory.byteAt_setByte_self (m : Memory) (lo k : Nat) (v : Byte) (h : m.wfFrom lo = true) :
    (m.setByte k v).byteAt k = v := by
  induction m generalizing lo with
  | nil => by_cases hv : v = 0#8 <;> simp [setByte, byteAt, hv]
  | cons c rest ih =>
    obtain ⟨a, b⟩ := c
    simp only [wfFrom, Bool.and_eq_true, decide_eq_true_eq] at h
    simp only [setByte]
    rcases Nat.lt_trichotomy k a with hk | hk | hk
    · have ha : k ≠ a := by omega
      by_cases hv : v = 0#8
      · simp [hk, hv, byteAt, ha, byteAt_of_lt h.2 (show k < a + 1 by omega)]
      · simp [hk, hv, byteAt]
    · subst hk
      by_cases hv : v = 0#8
      · simp [hv, byteAt_of_lt h.2 (Nat.lt_succ_self k)]
      · simp [hv, byteAt]
    · rw [if_neg (by omega), if_neg (by omega)]
      simp only [byteAt]
      rw [if_neg (by omega)]
      exact ih _ h.2

/-- A store leaves every other byte alone. -/
theorem Memory.byteAt_setByte_ne (m : Memory) {k i : Nat} (v : Byte) (hi : i ≠ k) :
    (m.setByte k v).byteAt i = m.byteAt i := by
  induction m with
  | nil => by_cases hv : v = 0#8 <;> simp [setByte, byteAt, hv, hi]
  | cons c rest ih =>
    obtain ⟨a, b⟩ := c
    simp only [setByte]
    split
    · split <;> simp [byteAt, hi]
    · split
      · next hk =>
        subst hk
        split <;> simp [byteAt, hi]
      · simp [byteAt, ih]

theorem Memory.wfFrom_mono {m : Memory} {lo lo' : Nat} (h : m.wfFrom lo = true) (hle : lo' ≤ lo) : m.wfFrom lo' = true := by
  cases m with
  | nil => rfl
  | cons c rest =>
    obtain ⟨a, v⟩ := c
    simp only [wfFrom, Bool.and_eq_true, decide_eq_true_eq] at h ⊢
    exact ⟨⟨⟨by omega, h.1.1.2⟩, h.1.2⟩, h.2⟩

theorem Memory.wfFrom_setByte {m : Memory} {lo k : Nat} (v : Byte) (h : m.wfFrom lo = true) (hlo : lo ≤ k) (hk : k < memBytes) :
    (m.setByte k v).wfFrom lo = true := by
  induction m generalizing lo with
  | nil => by_cases hv : v = 0#8 <;> simp [setByte, wfFrom, hv, hlo, hk]
  | cons c rest ih =>
    obtain ⟨a, b⟩ := c
    have h' := h
    simp only [wfFrom, Bool.and_eq_true, decide_eq_true_eq] at h
    simp only [setByte]
    split
    · split
      · exact h'
      · next hlt hv => simpa [wfFrom, hlo, hk, h.1.1.2, h.2, Nat.succ_le_of_lt hlt] using ⟨hv, h.1.2⟩
    · split
      · next hka =>
        split
        · exact wfFrom_mono h.2 (by omega)
        · next hv => subst hka; simpa [wfFrom, hlo, hk, h.2] using hv
      · simp only [wfFrom, Bool.and_eq_true, decide_eq_true_eq]
        exact ⟨h.1, ih h.2 (by omega)⟩

/-- Storing a byte keeps the canonical form. -/
theorem Memory.wf_setByte {m : Memory} {k : Nat} (v : Byte) (h : m.wf = true) (hk : k < memBytes) : (m.setByte k v).wf = true :=
  wfFrom_setByte v h (Nat.zero_le k) hk

/-- No lane is outside the 65536 bytes (20_memory R61). -/
theorem laneAddr_lt (a : Word) (high : Bool) : laneAddr a high < memBytes := by
  have := (a.extractLsb' 1 15).isLt
  cases high <;> simp [laneAddr, memBytes] at * <;> omega

theorem laneAddr_ne (a : Word) : laneAddr a false ≠ laneAddr a true := by simp [laneAddr]

/-- The lane that `A[0]` selects is the byte at `A` itself (20_memory R61). -/
theorem laneAddr_self (a : Word) : laneAddr a (a.getLsbD 0) = a.toNat := by
  have h := a.isLt
  simp only [laneAddr, BitVec.extractLsb'_toNat, BitVec.getLsbD, Nat.testBit_zero, Nat.shiftRight_eq_div_pow]
  rcases Nat.mod_two_eq_zero_or_one a.toNat with h0 | h0 <;> simp [h0] <;> omega

theorem Memory.wf_writeWord {m : Memory} (a v : Word) (h : m.wf = true) : (m.writeWord a v).wf = true :=
  wf_setByte _ (wf_setByte _ h (laneAddr_lt a false)) (laneAddr_lt a true)

theorem Memory.wf_writeByte {m : Memory} (a v : Word) (h : m.wf = true) : (m.writeByte a v).wf = true :=
  wf_setByte _ h (laneAddr_lt a _)

/-- Every store of the memory unit keeps the canonical form. -/
theorem applyStore_wf {m : Memory} (st : Option Store) (h : m.wf = true) : (applyStore m st).wf = true := by
  cases st with
  | none => exact h
  | some st =>
    simp only [applyStore]
    split
    · exact Memory.wf_writeWord _ _ h
    · exact Memory.wf_writeByte _ _ h

/-- The memory at reset is canonical, whatever the image. -/
theorem Memory.wf_ofImage (image : List (Word × Word)) : (Memory.ofImage image).wf = true := by
  suffices ∀ (l : List (Word × Word)) (m : Memory), m.wf = true → (l.foldl (fun m p => m.writeWord p.1 p.2) m).wf = true from
    this image [] rfl
  intro l
  induction l with
  | nil => exact fun _ h => h
  | cons p rest ih => exact fun m h => ih _ (wf_writeWord _ _ h)

end Sys2Proof.Machine
end

