-- ==== Sys2Proof/Laws/State.lean ====
section
/-! SUPPORT. What each update of the state does to each field, all by `rfl` and for `simp`. -/

namespace Sys2Proof.Machine

open Sys2Proof

/-! ### Writing the transient leaves the snapshot alone (10_state R40) -/

section InFlight
variable (s : State) (f g : Inflight → Inflight)

@[simp] theorem State.inFlight_pc : (s.inFlight f).pc = s.pc := rfl
@[simp] theorem State.inFlight_ir : (s.inFlight f).ir = s.ir := rfl
@[simp] theorem State.inFlight_mar : (s.inFlight f).mar = s.mar := rfl
@[simp] theorem State.inFlight_mdr : (s.inFlight f).mdr = s.mdr := rfl
@[simp] theorem State.inFlight_n : (s.inFlight f).n = s.n := rfl
@[simp] theorem State.inFlight_z : (s.inFlight f).z = s.z := rfl
@[simp] theorem State.inFlight_p : (s.inFlight f).p = s.p := rfl
@[simp] theorem State.inFlight_ben : (s.inFlight f).ben = s.ben := rfl
@[simp] theorem State.inFlight_ready : (s.inFlight f).ready = s.ready := rfl
@[simp] theorem State.inFlight_regs : (s.inFlight f).regs = s.regs := rfl
@[simp] theorem State.inFlight_stateIdx : (s.inFlight f).stateIdx = s.stateIdx := rfl
@[simp] theorem State.inFlight_cw : (s.inFlight f).cw = s.cw := rfl
@[simp] theorem State.inFlight_memCnt : (s.inFlight f).memCnt = s.memCnt := rfl
@[simp] theorem State.inFlight_mem : (s.inFlight f).mem = s.mem := rfl
@[simp] theorem State.inFlight_fault : (s.inFlight f).fault = s.fault := rfl
@[simp] theorem State.inFlight_lastBus : (s.inFlight f).lastBus = s.lastBus := rfl
@[simp] theorem State.inFlight_params : (s.inFlight f).params = s.params := rfl
@[simp] theorem State.inFlight_cycle : (s.inFlight f).cycle = f s.cycle := rfl
@[simp] theorem State.inFlight_inFlight : (s.inFlight f).inFlight g = s.inFlight (g ∘ f) := rfl
@[simp] theorem State.inFlight_reg (i : RegIdx) : (s.inFlight f).reg i = s.reg i := rfl
@[simp] theorem State.inFlight_tick : (s.inFlight f).tick = s.tick := rfl

end InFlight

/-! ### The start of a cycle -/

section OpenCycle
variable (s : State)

@[simp] theorem State.openCycle_pc : s.openCycle.pc = s.pc := rfl
@[simp] theorem State.openCycle_ir : s.openCycle.ir = s.ir := rfl
@[simp] theorem State.openCycle_mar : s.openCycle.mar = s.mar := rfl
@[simp] theorem State.openCycle_mdr : s.openCycle.mdr = s.mdr := rfl
@[simp] theorem State.openCycle_n : s.openCycle.n = s.n := rfl
@[simp] theorem State.openCycle_z : s.openCycle.z = s.z := rfl
@[simp] theorem State.openCycle_p : s.openCycle.p = s.p := rfl
@[simp] theorem State.openCycle_ben : s.openCycle.ben = s.ben := rfl
@[simp] theorem State.openCycle_ready : s.openCycle.ready = s.ready := rfl
@[simp] theorem State.openCycle_regs : s.openCycle.regs = s.regs := rfl
@[simp] theorem State.openCycle_stateIdx : s.openCycle.stateIdx = s.stateIdx := rfl
@[simp] theorem State.openCycle_cw : s.openCycle.cw = s.cw := rfl
@[simp] theorem State.openCycle_memCnt : s.openCycle.memCnt = s.memCnt := rfl
@[simp] theorem State.openCycle_mem : s.openCycle.mem = s.mem := rfl
@[simp] theorem State.openCycle_fault : s.openCycle.fault = s.fault := rfl
@[simp] theorem State.openCycle_lastBus : s.openCycle.lastBus = s.lastBus := rfl
@[simp] theorem State.openCycle_params : s.openCycle.params = s.params := rfl
@[simp] theorem State.openCycle_cycle : s.openCycle.cycle = .idle := rfl
@[simp] theorem State.openCycle_reg (i : RegIdx) : s.openCycle.reg i = s.reg i := rfl
@[simp] theorem State.openCycle_tick : s.openCycle.tick = s.tick := rfl

end OpenCycle

/-! ### A defined error changes FAULT only (60_exceptions R276) -/

section Raise
variable (s : State) (e : Fault)

@[simp] theorem State.raise_pc : (s.raise e).pc = s.pc := rfl
@[simp] theorem State.raise_ir : (s.raise e).ir = s.ir := rfl
@[simp] theorem State.raise_mar : (s.raise e).mar = s.mar := rfl
@[simp] theorem State.raise_mdr : (s.raise e).mdr = s.mdr := rfl
@[simp] theorem State.raise_n : (s.raise e).n = s.n := rfl
@[simp] theorem State.raise_z : (s.raise e).z = s.z := rfl
@[simp] theorem State.raise_p : (s.raise e).p = s.p := rfl
@[simp] theorem State.raise_ben : (s.raise e).ben = s.ben := rfl
@[simp] theorem State.raise_ready : (s.raise e).ready = s.ready := rfl
@[simp] theorem State.raise_regs : (s.raise e).regs = s.regs := rfl
@[simp] theorem State.raise_stateIdx : (s.raise e).stateIdx = s.stateIdx := rfl
@[simp] theorem State.raise_cw : (s.raise e).cw = s.cw := rfl
@[simp] theorem State.raise_memCnt : (s.raise e).memCnt = s.memCnt := rfl
@[simp] theorem State.raise_mem : (s.raise e).mem = s.mem := rfl
@[simp] theorem State.raise_lastBus : (s.raise e).lastBus = s.lastBus := rfl
@[simp] theorem State.raise_params : (s.raise e).params = s.params := rfl
@[simp] theorem State.raise_cycle : (s.raise e).cycle = .idle := rfl
@[simp] theorem State.raise_fault : (s.raise e).fault = s.fault.or (some e) := rfl

end Raise

/-! ### The commit, field by field (10_state R40, 44_latch_update R220) -/

section Commit
variable (s : State)

@[simp] theorem State.commit_pc : s.commit.pc = s.cycle.pc.getD s.pc := rfl
@[simp] theorem State.commit_ir : s.commit.ir = s.cycle.ir.getD s.ir := rfl
@[simp] theorem State.commit_mar : s.commit.mar = s.cycle.mar.getD s.mar := rfl
@[simp] theorem State.commit_mdr : s.commit.mdr = s.cycle.mdr.getD s.mdr := rfl
@[simp] theorem State.commit_n : s.commit.n = (s.cycle.flags.getD (s.n, s.z, s.p)).1 := rfl
@[simp] theorem State.commit_z : s.commit.z = (s.cycle.flags.getD (s.n, s.z, s.p)).2.1 := rfl
@[simp] theorem State.commit_p : s.commit.p = (s.cycle.flags.getD (s.n, s.z, s.p)).2.2 := rfl
@[simp] theorem State.commit_ben : s.commit.ben = s.cycle.ben.getD s.ben := rfl
@[simp] theorem State.commit_ready : s.commit.ready = s.cycle.ready.getD s.ready := rfl
@[simp] theorem State.commit_regs : s.commit.regs = (s.cycle.reg.map fun w => setReg s.regs w.1 w.2).getD s.regs := rfl
@[simp] theorem State.commit_stateIdx : s.commit.stateIdx = s.cycle.ns.getD s.stateIdx := rfl
@[simp] theorem State.commit_cw : s.commit.cw = (s.cycle.ns.map (controlStoreAt s.params)).getD s.cw := rfl
@[simp] theorem State.commit_memCnt : s.commit.memCnt = s.cycle.memCnt.getD s.memCnt := rfl
@[simp] theorem State.commit_mem : s.commit.mem = applyStore s.mem s.cycle.store := rfl
@[simp] theorem State.commit_fault : s.commit.fault = s.fault := rfl
@[simp] theorem State.commit_lastBus : s.commit.lastBus = s.cycle.bus := rfl
@[simp] theorem State.commit_params : s.commit.params = s.params := rfl
@[simp] theorem State.commit_cycle : s.commit.cycle = .idle := rfl

end Commit

/-! ### The state after reset (10_state R41) -/

theorem resetWith_default : resetWith Params.default = State.reset := rfl

end Sys2Proof.Machine
end

