-- ==== Sys2Proof/Laws/Ops.lean ====
section
/-! SUPPORT. One lemma per shared operation: everything it can answer. -/

namespace Sys2Proof.Machine

open Sys2Proof

/-- A consumer of the bus takes the driven value or records `BusUndriven`; it never stops. -/
theorem withBus_cases (s : State) (f : Word → Inflight → Inflight) :
    (s.cycle.bus = none ∧ withBus s f = .next (s.raise .busUndriven)) ∨
    (∃ v, s.cycle.bus = some v ∧ withBus s f = .next (s.inFlight (f v))) := by
  unfold withBus
  cases s.cycle.bus with
  | none => exact .inl ⟨rfl, rfl⟩
  | some v => exact .inr ⟨v, rfl, rfl⟩

theorem withBus_driven {s : State} {v : Word} (h : s.cycle.bus = some v) (f : Word → Inflight → Inflight) :
    withBus s f = .next (s.inFlight (f v)) := by
  simp [withBus, h]

theorem withBus_undriven {s : State} (h : s.cycle.bus = none) (f : Word → Inflight → Inflight) :
    withBus s f = .next (s.raise .busUndriven) := by
  simp [withBus, h]

/-- A tick always answers a next state that differs in the transient only. -/
theorem memTick_eq (s : State) (f : Inflight → Inflight) : ∃ g, memTick s f = .next (s.inFlight g) := ⟨_, rfl⟩

/-- The shape of every meaning: it writes the transient, or it records an error. -/
inductive Effect (s : State) : Result → Prop where
  | wrote (f : Inflight → Inflight) : Effect s (.next (s.inFlight f))
  | raised (e : Fault) : Effect s (.next (s.raise e))

theorem withBus_effect (s : State) (f : Word → Inflight → Inflight) : Effect s (withBus s f) := by
  rcases withBus_cases s f with ⟨-, h⟩ | ⟨v, -, h⟩ <;> rw [h]
  · exact .raised _
  · exact .wrote _

/-- Every micro-operation answers a next state: it writes the transient or records an error, and touches nothing else. -/
theorem exec_effect (i : Instr) (s : State) : Effect s (exec i s) := by
  cases i
  case shfReserved => exact .raised _
  case pcReserved => exact .raised _
  case gateShf =>
    simp only [exec, execGateShf]
    split
    · exact .raised _
    · exact .wrote _
  case pcBus => exact withBus_effect s _
  case ldMar => exact withBus_effect s _
  case ldIr => exact withBus_effect s _
  case ldMdrBus => exact withBus_effect s _
  case ldCc => exact withBus_effect s _
  case ldRegIr => exact withBus_effect s _
  case ldRegR7 => exact withBus_effect s _
  all_goals exact .wrote _

/-- The same, as two cases. -/
theorem exec_cases (i : Instr) (s : State) :
    (∃ f, exec i s = .next (s.inFlight f)) ∨ (∃ e, exec i s = .next (s.raise e)) := by
  generalize h : exec i s = r
  have := exec_effect i s
  rw [h] at this
  cases this with
  | wrote f => exact .inl ⟨f, rfl⟩
  | raised e => exact .inr ⟨e, rfl⟩

/-- Running micro-operations never stops: it ends in the same snapshot with a transient, or with an error recorded. -/
theorem runOps_effect (l : List Instr) (s : State) (hs : s.fault = none) :
    (∃ f, runOps l s = .next (s.inFlight f)) ∨ (∃ e, runOps l s = .next (s.raise e)) := by
  induction l generalizing s with
  | nil => exact .inl ⟨id, rfl⟩
  | cons i rest ih =>
    simp only [runOps]
    rcases exec_cases i s with ⟨f, hf⟩ | ⟨e, he⟩
    · simp only [hf, State.inFlight_fault, hs, Option.isSome_none, Bool.false_eq_true, if_false]
      rcases ih (s.inFlight f) hs with ⟨g, hg⟩ | ⟨e, he⟩
      · exact .inl ⟨g ∘ f, by rw [hg]; rfl⟩
      · exact .inr ⟨e, by rw [he]; rfl⟩
    · exact .inr ⟨e, by simp [he, hs]⟩

/-- A row that writes the transient hands the rest of the cycle on. -/
theorem runOps_wrote {i : Instr} {rest : List Instr} {s : State} {f : Inflight → Inflight} (hs : s.fault = none)
    (h : exec i s = .next (s.inFlight f)) : runOps (i :: rest) s = runOps rest (s.inFlight f) := by
  simp [runOps, h, hs]

/-- A row that records an error ends the cycle. -/
theorem runOps_raised {i : Instr} {rest : List Instr} {s : State} {e : Fault} (hs : s.fault = none)
    (h : exec i s = .next (s.raise e)) : runOps (i :: rest) s = .next (s.raise e) := by
  simp [runOps, h, hs]

/-- What a step can do, once: stop with the recorded error, stay halted, record an error and nothing else, or commit what the
micro-operations put into an idle transient. -/
theorem step_cases (s : State) :
    (∃ e, s.fault = some e ∧ step s = .fault e) ∨
    (s.fault = none ∧ s.pc = s.params.haltPc ∧ step s = .next s) ∨
    (s.Running ∧ ∃ e, step s = .next (s.openCycle.raise e)) ∨
    (s.Running ∧ ∃ m f, select s.cw s.ir = .ok m ∧
      runOps m.ops s.openCycle = .next (s.openCycle.inFlight f) ∧
      step s = .next (s.openCycle.inFlight f).commit) := by
  cases hf : s.fault with
  | some e => exact .inl ⟨e, rfl, by simp [step, stepCycle, hf]⟩
  | none =>
    by_cases hp : s.pc = s.params.haltPc
    · exact .inr (.inl ⟨rfl, hp, by simp [step, stepCycle, hf, State.halted, hp]⟩)
    · have hstep : step s = runCycle s := by simp [step, stepCycle, hf, State.halted, hp]
      cases hsel : select s.cw s.ir with
      | error r => exact .inr (.inr (.inl ⟨⟨hf, hp⟩, .multipleBusDrivers, by rw [hstep]; simp [runCycle, hsel]⟩))
      | ok m =>
        rcases runOps_effect m.ops s.openCycle hf with ⟨f, h⟩ | ⟨e, h⟩
        · exact .inr (.inr (.inr ⟨⟨hf, hp⟩, m, f, rfl, h, by rw [hstep]; simp [runCycle, hsel, h, finishCycle, hf]⟩))
        · exact .inr (.inr (.inl ⟨⟨hf, hp⟩, e, by rw [hstep]; simp [runCycle, hsel, h, finishCycle, hf]⟩))

end Sys2Proof.Machine
end

