-- ==== Sys2Proof/Laws/Cycle.lean ====
section
/-! SUPPORT. What the row selected in each slot of a cycle puts into the transient, in the terms of the reference step: one
lemma per slot, so that no later proof splits a control word's codes again. -/

namespace Sys2Proof.Machine

open Sys2Proof

/-- The store that this cycle's memory row leaves pending. -/
def pendingStore (s : State) : Option Store :=
  if s.cw.mioEn && decide (s.memCnt.toNat + 1 = 5) && s.cw.rW then some ⟨s.mar, s.cw.dataSize, s.mdr⟩ else none

theorem applyStore_pendingStore (s : State) : applyStore s.mem (pendingStore s) = Reference.nextMem s := by
  unfold pendingStore Reference.nextMem
  split <;> rfl

/-- A two-bit code is one of four. -/
theorem code_cases (v : BitVec 2) : v = 0 ∨ v = 1 ∨ v = 2 ∨ v = 3 := by revert v; decide

theorem indexMemwait_eq (j : StateIdx) (r : Bool) : indexMemwait j r = (j &&& 0b111101) ||| (if r then 2 else 0) := by
  cases r <;> rfl

theorem indexBranch_eq (j : StateIdx) (b : Bool) : indexBranch j b = (j &&& 0b111011) ||| (if b then 4 else 0) := by
  cases b <;> rfl

theorem indexAddrmode_eq (j : StateIdx) (ir : Word) :
    indexAddrmode j ir = (j &&& 0b111110) ||| (if ir.getLsbD 11 then 1 else 0) := by
  unfold indexAddrmode
  cases ir.getLsbD 11 <;> rfl

theorem exec_seqOp (s : State) :
    exec (seqOp s.cw) s = .next (s.inFlight fun c => { c with ns := some (Reference.nextIndex s) }) := by
  unfold seqOp Reference.nextIndex
  cases s.cw.ird with
  | true => rfl
  | false =>
    rcases code_cases s.cw.cond with h | h | h | h <;>
      simp [h, exec, execSeqNext, execSeqMemwait, execSeqBranch, execSeqAddrmode, putIndex, indexMemwait_eq,
        indexBranch_eq, indexAddrmode_eq]

theorem exec_memOp (s : State) :
    exec (memOp s.cw) s = .next (s.inFlight fun c =>
      { c with
        memCnt := some (Reference.nextCount s)
        ready := some (Reference.nextReady s)
        readResult := (Reference.readResult s).or c.readResult
        store := (pendingStore s).or c.store }) := by
  unfold memOp
  by_cases h5 : s.memCnt.toNat + 1 = 5 <;> cases hm : s.cw.mioEn <;> cases hr : s.cw.rW <;> cases hd : s.cw.dataSize <;>
    simp [exec, execMemIdle, execMemRdB, execMemRdW, execMemWrB, execMemWrW, memTick, State.tick, Reference.nextCount,
      Reference.nextReady, Reference.readResult, pendingStore, h5, hm, hr, hd, State.inFlight]

/-- ALU operands A and B of the reference step. -/
def operandA (s : State) : Word := if s.cw.sr1Mux then s.reg (irBase s.ir) else s.reg (irDr s.ir)

def operandB (s : State) : Word := if irImmSelect s.ir then (irImm5 s.ir).signExtend 16 else s.reg (irSr2 s.ir)

theorem exec_opAOp (s : State) : exec (opAOp s.cw) s = .next (s.inFlight fun c => { c with opA := some (operandA s) }) := by
  unfold opAOp operandA
  cases s.cw.sr1Mux <;> rfl

theorem exec_opBOp (s : State) : exec (opBOp s.ir) s = .next (s.inFlight fun c => { c with opB := some (operandB s) }) := by
  unfold opBOp operandB
  cases irImmSelect s.ir <;> rfl

/-- The ALU's output from whatever operands the transient holds. -/
def aluFrom (k : BitVec 2) (a b : Option Word) : Option Word :=
  if k = 3 then a else match a, b with
    | some a, some b => some (if k = 0 then a + b else if k = 1 then a &&& b else a ^^^ b)
    | _, _ => none

theorem exec_aluOp (s : State) :
    exec (aluOp s.cw) s = .next (s.inFlight fun c => { c with alu := aluFrom s.cw.aluK c.opA c.opB }) := by
  unfold aluOp aluFrom
  rcases code_cases s.cw.aluK with h | h | h | h <;> rw [h] <;> rfl

theorem aluFrom_operands (s : State) : aluFrom s.cw.aluK (some (operandA s)) (some (operandB s)) = some (Reference.aluOut s) := by
  unfold aluFrom Reference.aluOut operandA operandB
  rcases code_cases s.cw.aluK with h | h | h | h <;> simp [h]

theorem exec_shfOp (s : State) :
    exec (shfOp s.ir) s = match Reference.shfOut s with
      | some v => .next (s.inFlight fun c => { c with shf := some v })
      | none => .next (s.raise .shifterReservedMode) := by
  unfold shfOp Reference.shfOut
  rcases code_cases (irShiftMode s.ir) with h | h | h | h <;> simp [h] <;> rfl

/-- The adder's offset, shifted offset and base of the reference step. -/
def adderOffset (s : State) : Word :=
  match s.cw.addr2Mux with
  | 0 => 0
  | 1 => (irOffset6 s.ir).signExtend 16
  | 2 => (irOffset9 s.ir).signExtend 16
  | 3 => (irOffset11 s.ir).signExtend 16

def adderBase (s : State) : Word := if s.cw.addr1Mux then s.reg (irBase s.ir) else s.pc

theorem adderOut_eq (s : State) :
    Reference.adderOut s = (if s.cw.lshf1 then adderOffset s <<< 1 else adderOffset s) + adderBase s := rfl

theorem exec_offOp (s : State) : exec (offOp s.cw) s = .next (s.inFlight fun c => { c with off := some (adderOffset s) }) := by
  unfold offOp adderOffset
  rcases code_cases s.cw.addr2Mux with h | h | h | h <;> simp [h] <;> rfl

theorem exec_offShiftOp (s : State) :
    exec (offShiftOp s.cw) s =
      .next (s.inFlight fun c => { c with op1 := c.off.map fun (v : Word) => if s.cw.lshf1 then v <<< 1 else v }) := by
  unfold offShiftOp
  cases s.cw.lshf1
  · simp [exec, execLshf1Off]
  · rfl

theorem exec_baseOp (s : State) : exec (baseOp s.cw) s = .next (s.inFlight fun c => { c with op2 := some (adderBase s) }) := by
  unfold baseOp adderBase
  cases s.cw.addr1Mux <;> rfl

theorem exec_marSrcOp (s : State) :
    exec (marSrcOp s.cw) s = .next (s.inFlight fun c =>
      { c with marmuxOut := if s.cw.marMux then c.adder else some ((irLowByte s.ir).setWidth 16 <<< 1) }) := by
  unfold marSrcOp
  cases s.cw.marMux <;> rfl

/-- Two lists in a row: the second runs where the first left off. -/
theorem runOps_append_next {l₁ l₂ : List Instr} {s : State} {f : Inflight → Inflight} (hs : s.fault = none)
    (h : runOps l₁ s = .next (s.inFlight f)) : runOps (l₁ ++ l₂) s = runOps l₂ (s.inFlight f) := by
  induction l₁ generalizing s f with
  | nil =>
    simp only [runOps, Host.Outcome.next.injEq] at h
    simp [← h]
  | cons i rest ih =>
    rcases exec_cases i s with ⟨g, hg⟩ | ⟨e, he⟩
    · rw [runOps_wrote hs hg] at h
      have h' : runOps rest (s.inFlight g) = .next ((s.inFlight g).inFlight fun _ => f s.cycle) := h
      rw [List.cons_append, runOps_wrote hs hg, ih (s := s.inFlight g) hs h']
      rfl
    · rw [runOps_raised hs he] at h
      have : (s.raise e).fault = none := by
        rw [Host.Outcome.next.inj h]
        exact hs
      simp [hs] at this

/-- A list that records an error is the whole cycle. -/
theorem runOps_append_raise {l₁ l₂ : List Instr} {s : State} {e : Fault} (hs : s.fault = none)
    (h : runOps l₁ s = .next (s.raise e)) : runOps (l₁ ++ l₂) s = .next (s.raise e) := by
  induction l₁ generalizing s with
  | nil =>
    have := congrArg State.fault (Host.Outcome.next.inj h)
    simp [hs] at this
  | cons i rest ih =>
    rcases exec_cases i s with ⟨g, hg⟩ | ⟨e', he⟩
    · rw [runOps_wrote hs hg] at h
      rw [List.cons_append, runOps_wrote hs hg]
      exact ih (s := s.inFlight g) hs h
    · rw [runOps_raised hs he] at h
      rw [List.cons_append, runOps_raised hs he, h]

/-! ### Running one slot

`snap s c` is the snapshot `s` with the transient `c`. Each lemma runs the row in one slot of a cycle that has met no error. -/

/-- The snapshot with a given transient. -/
def snap (s : State) (c : Inflight) : State := { s with cycle := c }

theorem snap_idle (s : State) : s.openCycle = snap s .idle := rfl

theorem snap_raise (s : State) (c : Inflight) (e : Fault) : (snap s c).raise e = s.openCycle.raise e := rfl

section Slots

variable {s : State} {c : Inflight} {rest : List Instr} (hs : s.fault = none)
include hs

theorem runOps_snap {d : Inflight} {i : Instr} (f : Inflight → Inflight) (h : exec i (snap s c) = .next ((snap s c).inFlight f))
    (hd : f c = d) : runOps (i :: rest) (snap s c) = runOps rest (snap s d) := by
  subst hd
  exact runOps_wrote hs h

theorem run_seq : runOps (seqOp s.cw :: rest) (snap s c) =
    runOps rest (snap s { c with ns := some (Reference.nextIndex s) }) :=
  runOps_snap hs _ (exec_seqOp (snap s c)) rfl

theorem run_mem : runOps (memOp s.cw :: rest) (snap s c) =
    runOps rest (snap s { c with
      memCnt := some (Reference.nextCount s)
      ready := some (Reference.nextReady s)
      readResult := (Reference.readResult s).or c.readResult
      store := (pendingStore s).or c.store }) :=
  runOps_snap hs _ (exec_memOp (snap s c)) rfl

theorem run_opA : runOps (opAOp s.cw :: rest) (snap s c) = runOps rest (snap s { c with opA := some (operandA s) }) :=
  runOps_snap hs _ (exec_opAOp (snap s c)) rfl

theorem run_opB : runOps (opBOp s.ir :: rest) (snap s c) = runOps rest (snap s { c with opB := some (operandB s) }) :=
  runOps_snap hs _ (exec_opBOp (snap s c)) rfl

theorem run_alu : runOps (aluOp s.cw :: rest) (snap s c) =
    runOps rest (snap s { c with alu := aluFrom s.cw.aluK c.opA c.opB }) :=
  runOps_snap hs _ (exec_aluOp (snap s c)) rfl

theorem run_shf {v : Word} (h : Reference.shfOut s = some v) :
    runOps (shfOp s.ir :: rest) (snap s c) = runOps rest (snap s { c with shf := some v }) :=
  runOps_snap hs (fun c => { c with shf := some v })
    (by have h2 := exec_shfOp (snap s c); rw [show Reference.shfOut (snap s c) = some v from h] at h2; exact h2) rfl

theorem run_shf_reserved (h : Reference.shfOut s = none) :
    runOps (shfOp s.ir :: rest) (snap s c) = .next (s.openCycle.raise .shifterReservedMode) :=
  runOps_raised (s := snap s c) hs
    (by have h2 := exec_shfOp (snap s c); rw [show Reference.shfOut (snap s c) = none from h] at h2; exact h2)

theorem run_off : runOps (offOp s.cw :: rest) (snap s c) = runOps rest (snap s { c with off := some (adderOffset s) }) :=
  runOps_snap hs _ (exec_offOp (snap s c)) rfl

theorem run_offShift : runOps (offShiftOp s.cw :: rest) (snap s c) =
    runOps rest (snap s { c with op1 := c.off.map fun (v : Word) => if s.cw.lshf1 then v <<< 1 else v }) :=
  runOps_snap hs _ (exec_offShiftOp (snap s c)) rfl

theorem run_base : runOps (baseOp s.cw :: rest) (snap s c) = runOps rest (snap s { c with op2 := some (adderBase s) }) :=
  runOps_snap hs _ (exec_baseOp (snap s c)) rfl

theorem run_marSrc : runOps (marSrcOp s.cw :: rest) (snap s c) =
    runOps rest (snap s { c with
      marmuxOut := if s.cw.marMux then c.adder else some ((irLowByte s.ir).setWidth 16 <<< 1) }) :=
  runOps_snap hs _ (exec_marSrcOp (snap s c)) rfl

/-- The PC slot: the reserved code and an undriven bus are errors, anything else is a next PC or none. -/
theorem run_pc {a : Word} (ha : c.adder = some a) : runOps (pcOp s.cw :: rest) (snap s c) =
    if s.cw.ldPc && s.cw.pcMux == 3 then .next (s.openCycle.raise .pcMuxReserved)
    else if s.cw.ldPc && s.cw.pcMux == 1 && c.bus.isNone then .next (s.openCycle.raise .busUndriven)
    else runOps rest (snap s { c with
      pc := if s.cw.ldPc then (if s.cw.pcMux = 0 then some (s.pc + 2) else if s.cw.pcMux = 1 then c.bus else some a)
        else none }) := by
  unfold pcOp
  cases hl : s.cw.ldPc with
  | false => simpa using runOps_snap (s := s) (c := c) hs (fun c => { c with pc := none }) rfl rfl
  | true =>
    rcases code_cases s.cw.pcMux with h | h | h | h
    · simpa [h] using runOps_snap (s := s) (c := c) (i := .pcInc2) hs (fun c => { c with pc := some (s.pc + 2) }) rfl rfl
    · cases hb : c.bus with
      | none => simpa [h, snap_raise] using runOps_raised (s := snap s c) (rest := rest) (i := .pcBus) hs (withBus_undriven (s := snap s c) hb _)
      | some v =>
        simpa [h, hb] using runOps_snap (s := s) (c := c) (rest := rest) (i := .pcBus) hs (fun c => { c with pc := some v })
          (withBus_driven (s := snap s c) hb _) rfl
    · simpa [h, ha] using runOps_snap (s := s) (c := c) (i := .pcAdder) hs (fun c => { c with pc := c.adder }) rfl rfl
    · simpa [h, snap_raise] using runOps_raised (s := snap s c) (rest := rest) (i := .pcReserved) hs rfl

/-- A load from a driven bus. -/
theorem run_load {b : Bool} {i : Instr} {f : Word → Inflight → Inflight} {v : Word}
    (hi : exec i (snap s c) = withBus (snap s c) f) (hb : c.bus = some v) :
    runOps ((loadOp b i).toList ++ rest) (snap s c) = runOps rest (snap s (if b then f v c else c)) := by
  cases b with
  | false => rfl
  | true => exact runOps_snap hs (f v) (hi.trans (withBus_driven (s := snap s c) hb f)) rfl

/-- A load from an undriven bus. -/
theorem run_load_undriven {b : Bool} {i : Instr} {f : Word → Inflight → Inflight}
    (hi : exec i (snap s c) = withBus (snap s c) f) (hb : c.bus = none) :
    runOps ((loadOp b i).toList ++ rest) (snap s c) =
      if b then .next (s.openCycle.raise .busUndriven) else runOps rest (snap s c) := by
  cases b with
  | false => rfl
  | true => exact runOps_raised (s := snap s c) hs (hi.trans (withBus_undriven (s := snap s c) hb f))

theorem run_ldMdrMem {b : Bool} : runOps ((loadOp b .ldMdrMem).toList ++ rest) (snap s c) =
    runOps rest (snap s (if b then { c with mdr := c.readResult } else c)) := by
  cases b with
  | false => rfl
  | true => exact runOps_snap hs _ rfl rfl

theorem run_ldBen {b : Bool} : runOps ((loadOp b .ldBen).toList ++ rest) (snap s c) =
    runOps rest (snap s (if b then { c with ben := some (benOf s.ir s.n s.z s.p) } else c)) := by
  cases b with
  | false => rfl
  | true => exact runOps_snap hs (fun c => { c with ben := some (benOf s.ir s.n s.z s.p) }) rfl rfl

end Slots

end Sys2Proof.Machine
end

