-- ==== Sys2Proof/Laws/PerInstr.lean ====
section
/-! SUPPORT. Per micro-operation: the words the encoder makes for it match its row of opcode_table.json, and the selection is
well-formed. -/

namespace Sys2Proof.Laws.TableRows

open Sys2Proof

/-- The selection that holds the row by itself is well-formed, the row's mask and pattern apply to its encoded words, and the
unit the row requires is selected (30_encoding R96). -/
def Statement (i : Instr) : Prop :=
  i.alone.wellFormed = true ∧ i ∈ i.alone.ops ∧
    i.row.applies (encode i.alone).1 (encode i.alone).2 = true ∧ i.requirement (encode i.alone).1 = true

theorem seqDispatch : Statement .seqDispatch := by unfold Statement; decide

theorem seqNext (j : StateIdx) : Statement (.seqNext j) := by
  revert j; unfold Statement; decide

theorem seqMemwait (j : StateIdx) : Statement (.seqMemwait j) := by
  revert j; unfold Statement; decide

theorem seqBranch (j : StateIdx) : Statement (.seqBranch j) := by
  revert j; unfold Statement; decide

theorem seqAddrmode (j : StateIdx) : Statement (.seqAddrmode j) := by
  revert j; unfold Statement; decide

theorem memIdle : Statement .memIdle := by unfold Statement; decide

theorem memRdB : Statement .memRdB := by unfold Statement; decide

theorem memRdW : Statement .memRdW := by unfold Statement; decide

theorem memWrB : Statement .memWrB := by unfold Statement; decide

theorem memWrW : Statement .memWrW := by unfold Statement; decide

theorem aluAdd : Statement .aluAdd := by unfold Statement; decide

theorem aluAnd : Statement .aluAnd := by unfold Statement; decide

theorem aluXor : Statement .aluXor := by unfold Statement; decide

theorem aluPassa : Statement .aluPassa := by unfold Statement; decide

theorem sr1Ir11_9 : Statement .sr1Ir11_9 := by unfold Statement; decide

theorem sr1Ir8_6 : Statement .sr1Ir8_6 := by unfold Statement; decide

theorem opbReg (sr2 : RegIdx) : Statement (.opbReg sr2) := by
  revert sr2; unfold Statement; decide

theorem opbImm5 (imm5 : BitVec 5) : Statement (.opbImm5 imm5) := by
  revert imm5; unfold Statement; decide

theorem shfLshf (sr : RegIdx) (amount : BitVec 4) : Statement (.shfLshf sr amount) := by
  revert sr amount; unfold Statement; decide

theorem shfRshfl (sr : RegIdx) (amount : BitVec 4) : Statement (.shfRshfl sr amount) := by
  revert sr amount; unfold Statement; decide

theorem shfReserved : Statement .shfReserved := by unfold Statement; decide

theorem shfRshfa (sr : RegIdx) (amount : BitVec 4) : Statement (.shfRshfa sr amount) := by
  revert sr amount; unfold Statement; decide

theorem addr2Zero : Statement .addr2Zero := by unfold Statement; decide

theorem addr2Off6 : Statement .addr2Off6 := by unfold Statement; decide

theorem addr2Off9 : Statement .addr2Off9 := by unfold Statement; decide

theorem addr2Off11 : Statement .addr2Off11 := by unfold Statement; decide

theorem lshf1Off : Statement .lshf1Off := by unfold Statement; decide

theorem lshf1On : Statement .lshf1On := by unfold Statement; decide

theorem addr1Pc : Statement .addr1Pc := by unfold Statement; decide

theorem addr1Baser : Statement .addr1Baser := by unfold Statement; decide

theorem marmuxVect8 : Statement .marmuxVect8 := by unfold Statement; decide

theorem marmuxAdder : Statement .marmuxAdder := by unfold Statement; decide

theorem busNone : Statement .busNone := by unfold Statement; decide

theorem gatePc : Statement .gatePc := by unfold Statement; decide

theorem gateMdr : Statement .gateMdr := by unfold Statement; decide

theorem gateAlu : Statement .gateAlu := by unfold Statement; decide

theorem gateMarmux : Statement .gateMarmux := by unfold Statement; decide

theorem gateShf : Statement .gateShf := by unfold Statement; decide

theorem pcHold : Statement .pcHold := by unfold Statement; decide

theorem pcInc2 : Statement .pcInc2 := by unfold Statement; decide

theorem pcBus : Statement .pcBus := by unfold Statement; decide

theorem pcAdder : Statement .pcAdder := by unfold Statement; decide

theorem pcReserved : Statement .pcReserved := by unfold Statement; decide

theorem ldMar : Statement .ldMar := by unfold Statement; decide

theorem ldIr : Statement .ldIr := by unfold Statement; decide

theorem ldMdrBus : Statement .ldMdrBus := by unfold Statement; decide

theorem ldMdrMem : Statement .ldMdrMem := by unfold Statement; decide

theorem ldCc : Statement .ldCc := by unfold Statement; decide

theorem ldBen : Statement .ldBen := by unfold Statement; decide

theorem ldRegIr : Statement .ldRegIr := by unfold Statement; decide

theorem ldRegR7 : Statement .ldRegR7 := by unfold Statement; decide

end Sys2Proof.Laws.TableRows
end

