-- ==== Sys2Proof/Tests/Slice0.lean ====
section
/-! SUPPORT. Tests. Control words are written out in the packing of 30_encoding R91 (35 bits, the order of the spec's own strings
in 95_test_vectors); expected values are those of 95_test_vectors or worked out by hand from the rule named. Then, for every
statement with hypotheses, a state and operands that meet them. -/

namespace Sys2Proof.Tests

open Sys2Proof Sys2Proof.Machine

/-- A control word from its 35 bits. -/
def word (w : BitVec 35) : ControlWord := ControlWord.ofBits w

/-- The all-zero word; "every field not named is 0" (30_encoding R102). -/
abbrev z : ControlWord := ControlWord.zero

/-- The word and IR select the row. -/
def selects (w : ControlWord) (ir : Word) (i : Instr) : Bool :=
  match select w ir with
  | .ok m => m.ops.contains i
  | .error _ => false

/-- The 35 bits are a word that, with IR, selects the row. -/
def reads (w : BitVec 35) (ir : Word) (i : Instr) : Bool := selects (word w) ir i

/-- The state of 95_test_vectors section 2: at reset but for CW and IR. -/
def onWord (w : ControlWord) (ir : Word := 0) : State := { State.reset with cw := w, ir := ir }

/-- The state before tick 5 (95_test_vectors section 2.8). -/
def tick5 (w : ControlWord) (mar mdr : Word) (mem : Memory) : State :=
  { State.reset with cw := w, mar := mar, mdr := mdr, mem := mem, memCnt := 4, ready := true }

/-- The next state of one step, where there is one, has the property. -/
def after (s : State) (f : State → Bool) : Bool :=
  match step s with
  | .next t => f t
  | _ => false

theorem after_iff (s : State) (f : State → Bool) : after s f = true ↔ ∃ t, step s = .next t ∧ f t = true := by
  unfold after
  split <;> simp_all

theorem exists_of_selects {w : ControlWord} {ir : Word} {i : Instr} (h : selects w ir i = true) :
    ∃ m, select w ir = .ok m ∧ i ∈ m.ops := by
  unfold selects at h
  split at h
  · exact ⟨_, ‹_›, by simpa using h⟩
  · cases h

/-! ### WellFormed: an ill-formed selection for each check -/

open Microinstruction in
/-- The all-zero selection is well-formed; a row in a slot of another group is not. -/
theorem test_wellFormed_groups :
    idle.wellFormed = true ∧
    { idle with seq := .aluAdd }.wellFormed = false ∧ { idle with mem := .aluAdd }.wellFormed = false ∧
    { idle with opA := .aluAdd }.wellFormed = false ∧ { idle with alu := .memIdle }.wellFormed = false ∧
    { idle with off := .aluAdd }.wellFormed = false ∧ { idle with offShift := .aluAdd }.wellFormed = false ∧
    { idle with base := .aluAdd }.wellFormed = false ∧ { idle with marSrc := .aluAdd }.wellFormed = false ∧
    { idle with bus := .aluAdd }.wellFormed = false ∧ { idle with pc := .aluAdd }.wellFormed = false ∧
    { idle with ldMar := some .ldIr }.wellFormed = false ∧ { idle with ldIr := some .ldMar }.wellFormed = false ∧
    { idle with ldMdr := some .ldMar }.wellFormed = false ∧ { idle with ldCc := some .ldMar }.wellFormed = false ∧
    { idle with ldBen := some .ldMar }.wellFormed = false ∧ { idle with ldReg := some .ldMar }.wellFormed = false := by
  decide

open Microinstruction in
/-- The checks across slots: operand B and GATE_ALU, the shifter and GATE_SHF, the two MDR loads and MIO_EN. -/
theorem test_wellFormed_across :
    { idle with opB := some (.opbReg 0) }.wellFormed = false ∧ { idle with bus := .gateAlu }.wellFormed = false ∧
    { idle with bus := .gateAlu, opB := some .shfReserved }.wellFormed = false ∧
    { idle with shf := some .shfReserved }.wellFormed = false ∧ { idle with bus := .gateShf }.wellFormed = false ∧
    { idle with bus := .gateShf, shf := some (.opbReg 0) }.wellFormed = false ∧
    { idle with ldMdr := some .ldMdrMem }.wellFormed = false ∧
    { idle with ldMdr := some .ldMdrBus, mem := .memRdW }.wellFormed = false := by
  decide

/-! ### Decoding: words written out from the encoding -/

theorem test_decode_sequencer :
    reads 0b11011111100000000000000000000000000 0x1283 .seqDispatch ∧  -- IRD COND=2 J=63
    reads 0b00010000100000000000000000000000000 0 (.seqNext 33) ∧  -- J=33
    reads 0b00110001100000000000000000000000000 0 (.seqMemwait 35) ∧  -- COND=1 J=35
    reads 0b01001001000000000000000000000000000 0 (.seqBranch 18) ∧  -- COND=2 J=18
    reads 0b01101010000000000000000000000000000 0 (.seqAddrmode 20) := by  -- COND=3 J=20
  decide

theorem test_decode_memory :
    reads 0b00000000000000000000000000000000110 0 .memIdle ∧  -- WR WORD
    reads 0b00101110101000000000000000000001000 0 .memRdB ∧  -- MIO_EN RD BYTE LD_MDR COND=1 J=29
    reads 0b00101100101000000000000000000001010 0 .memRdW ∧  -- MIO_EN RD WORD LD_MDR COND=1 J=25
    reads 0b00101000100000000000000000000001100 0 .memWrB ∧  -- MIO_EN WR BYTE COND=1 J=17
    reads 0b00101000000000000000000000000001110 0 .memWrW := by  -- MIO_EN WR WORD COND=1 J=16
  decide

theorem test_decode_alu :
    reads 0b00000000000000000010000000000000000 0 .aluAdd ∧  -- GATE_ALU ALUK=0
    reads 0b00000000000000000010000000000010000 0 .aluAnd ∧  -- GATE_ALU ALUK=1
    reads 0b00000000000000000010000000000100000 0 .aluXor ∧  -- GATE_ALU ALUK=2
    reads 0b00000000000000000010000000000110000 0 .aluPassa ∧  -- GATE_ALU ALUK=3
    reads 0b00000000000000000010000000000000000 0x1283 .sr1Ir11_9 ∧  -- GATE_ALU SR1MUX=0
    reads 0b00000000000000000010000010000000000 0x1283 .sr1Ir8_6 ∧  -- GATE_ALU SR1MUX=1
    reads 0b00000000000000000010000000000000000 0x1242 (.opbReg 2) ∧  -- GATE_ALU
    reads 0b00000000000000000010000000000000000 0x127F (.opbImm5 0b11111) := by  -- GATE_ALU
  decide

/-- Source `IR[8:6]` = 2; the modes of 95_test_vectors H1, H6, H16, H11. -/
theorem test_decode_shifter :
    reads 0b00000000000000000000100000000000000 0xD281 (.shfLshf 2 1) ∧  -- GATE_SHF
    reads 0b00000000000000000000100000000000000 0xD294 (.shfRshfl 2 4) ∧  -- GATE_SHF
    reads 0b00000000000000000000100000000000000 0xD2A4 .shfReserved ∧  -- GATE_SHF
    reads 0b00000000000000000000100000000000000 0xD2BF (.shfRshfa 2 15) ∧  -- GATE_SHF
    select (word 0) 0xD262 = .ok .idle := by
  decide

theorem test_decode_address_unit :
    reads 0b00000000000000000000000000000000000 0 .addr2Zero ∧  -- ADDR2MUX=0
    reads 0b00000000000000000000000000010000000 0 .addr2Off6 ∧  -- ADDR2MUX=1
    reads 0b00000000000000000000000000100000000 0 .addr2Off9 ∧  -- ADDR2MUX=2
    reads 0b00000000000000000000000000110000000 0 .addr2Off11 ∧  -- ADDR2MUX=3
    reads 0b00000000000000000000000000000000000 0 .lshf1Off ∧  -- LSHF1=0
    reads 0b00000000000000000000000000000000001 0 .lshf1On ∧  -- LSHF1=1
    reads 0b00000000000000000000000000000000000 0 .addr1Pc ∧  -- ADDR1MUX=0
    reads 0b00000000000000000000000001000000000 0 .addr1Baser ∧  -- ADDR1MUX=1
    reads 0b00000000000000000000000000000000000 0 .marmuxVect8 ∧  -- MARMUX=0
    reads 0b00000000000000000000000000001000000 0 .marmuxAdder := by  -- MARMUX=1
  decide

theorem test_decode_gates :
    reads 0b00000000000010000000000000000000000 0 .busNone ∧  -- LD_BEN
    reads 0b00000000000000001000000000000000000 0 .gatePc ∧  -- GATE_PC
    reads 0b00000000000000000100000000000000000 0 .gateMdr ∧  -- GATE_MDR
    reads 0b00000000000000000010000000000000000 0 .gateAlu ∧  -- GATE_ALU
    reads 0b00000000000000000001000000000000000 0 .gateMarmux ∧  -- GATE_MARMUX
    reads 0b00000000000000000000100000000000000 0 .gateShf ∧  -- GATE_SHF
    select (word 0b00000000000000001100000000000000000) 0 = .error .multipleBusDrivers := by  -- GATE_PC GATE_MDR
  decide

theorem test_decode_pc :
    reads 0b00000000000000000000011000000000000 0 .pcHold ∧  -- PCMUX=3
    reads 0b00000000000000010000000000000000000 0 .pcInc2 ∧  -- LD_PC PCMUX=0
    reads 0b00000000000000010000001000000000000 0 .pcBus ∧  -- LD_PC PCMUX=1
    reads 0b00000000000000010000010000000000000 0 .pcAdder ∧  -- LD_PC PCMUX=2
    reads 0b00000000000000010000011000000000000 0 .pcReserved := by  -- LD_PC PCMUX=3
  decide

theorem test_decode_loads :
    reads 0b00000000010000000000000000000000000 0 .ldMar ∧  -- LD_MAR
    reads 0b00000000000100000000000000000000000 0 .ldIr ∧  -- LD_IR
    reads 0b00000000001000000000000000000000000 0 .ldMdrBus ∧  -- LD_MDR
    reads 0b00000000001000000000000000000001000 0 .ldMdrMem ∧  -- LD_MDR MIO_EN
    reads 0b00000000000000100000000000000000000 0 .ldCc ∧  -- LD_CC
    reads 0b00000000000010000000000000000000000 0 .ldBen ∧  -- LD_BEN
    reads 0b00000000000001000000000000000000000 0 .ldRegIr ∧  -- LD_REG DRMUX=0
    reads 0b00000000000001000000000100000000000 0 .ldRegR7 := by  -- LD_REG DRMUX=1
  decide

/-- What the host asks: the row of a word of opcode_table.json, 40 bits for a control word, 16 for IR. -/
theorem test_decodeTableWord :
    decodeTableWord 40 0x400000000 = some .seqDispatch ∧ decodeTableWord 40 0 = some (.seqNext 0) ∧
    decodeTableWord 40 0x00000000E = some .memWrW ∧ decodeTableWord 40 0x000200800 = some .ldRegR7 ∧
    decodeTableWord 40 0x001000008 = some .ldMdrMem ∧ decodeTableWord 16 0x0030 = some (.shfRshfa 0 0) ∧
    decodeTableWord 40 0x00007C000 = none ∧ decodeTableWord 40 0x800000000 = none := by decide

/-- The word placed for the first step after reset is the one it executes. -/
theorem test_withFetchWord :
    after (State.reset.withFetchWord 40 0b00010000110000011000000000000000000)
      (fun t => t.mar == 0x3000 && t.pc == 0x3002 && t.stateIdx == 33) ∧
    after (State.reset.withFetchWord 16 0x0020) (fun t => t.fault == some .shifterReservedMode) := by decide

/-! ### One step: vectors of 95_test_vectors section 2 -/

/-- S2, S10, S11, S16, S19, S20. -/
theorem test_step_sequencer :
    after { onWord { z with ird := true, cond := 1 } 0xF025 with ready := true, ben := true } (·.stateIdx == 15) ∧
    after { onWord { z with cond := 1, j := 33 } with ready := true } (·.stateIdx == 35) ∧
    after (onWord { z with cond := 1, j := 35 }) (·.stateIdx == 33) ∧
    after (onWord { z with cond := 2, j := 22 }) (·.stateIdx == 18) ∧
    after (onWord { z with cond := 3, j := 20 } 0x4800) (·.stateIdx == 21) ∧
    after (onWord { z with cond := 3, j := 21 } 0x4000) (·.stateIdx == 20) := by
  decide

/-- R1 and R2 as given. -/
def operands (s : State) (r1 r2 : Word) : State := { s with regs := setReg (setReg s.regs 1 r1) 2 r2 }

/-- A1, A5, A8, A11, A14, A16. -/
theorem test_step_alu :
    after (operands (onWord { z with gateAlu := true, aluK := 0, sr1Mux := true } 0x1242) 0xFFFF 1) (·.lastBus == some 0) ∧
    after (operands (onWord { z with gateAlu := true, aluK := 0, sr1Mux := true } 0x1270) 0x0010 0) (·.lastBus == some 0) ∧
    after (operands (onWord { z with gateAlu := true, aluK := 1, sr1Mux := true } 0x5242) 0xFF0F 0x0FF0)
      (·.lastBus == some 0x0F00) ∧
    after (operands (onWord { z with gateAlu := true, aluK := 2, sr1Mux := true } 0x9242) 0xAAAA 0xFFFF)
      (·.lastBus == some 0x5555) ∧
    after (operands (onWord { z with gateAlu := true, aluK := 3, sr1Mux := true } 0x1242) 0x1234 0xFFFF)
      (·.lastBus == some 0x1234) ∧
    after (operands (onWord { z with gateAlu := true, aluK := 3 } 0x1283) 0x1111 0x2222)
      (·.lastBus == some 0x1111) := by decide

/-- H1, H6, H11 with amounts 1 and 15. -/
theorem test_step_shifter :
    after (operands (onWord { z with gateShf := true } 0xD281) 0 0x8001) (·.lastBus == some 0x0002) ∧
    after (operands (onWord { z with gateShf := true } 0xD28F) 0 0x8001) (·.lastBus == some 0x8000) ∧
    after (operands (onWord { z with gateShf := true } 0xD291) 0 0x8001) (·.lastBus == some 0x4000) ∧
    after (operands (onWord { z with gateShf := true } 0xD2B1) 0 0x8001) (·.lastBus == some 0xC000) ∧
    after (operands (onWord { z with gateShf := true } 0xD2BF) 0 0x8001) (·.lastBus == some 0xFFFF) := by decide

/-- D1, D3, D6, D7, and B4. -/
theorem test_step_address_unit :
    after (onWord { z with gateMarmux := true, marMux := true, addr2Mux := 0 } 0xFFFF) (·.lastBus == some 0x3000) ∧
    after (operands (onWord { z with gateMarmux := true, marMux := true, addr2Mux := 1, addr1Mux := true } 0x60BF) 0 0x4000)
      (·.lastBus == some 0x3FFF) ∧
    after (operands (onWord { z with gateMarmux := true, marMux := true, addr2Mux := 1, lshf1 := true, addr1Mux := true } 0x60A0) 0 0x0010)
      (·.lastBus == some 0xFFD0) ∧
    after { onWord { z with gateMarmux := true, marMux := true, addr2Mux := 2, lshf1 := true } 0x01FD with pc := 0x3004 }
      (·.lastBus == some 0x2FFE) ∧
    after (onWord { z with gateMarmux := true, marMux := false } 0x7883) (·.lastBus == some 0x0106) := by decide

/-- X1 to X8. -/
theorem test_step_memory :
    let m : Memory := [(0x3000, 0x34), (0x3001, 0x92), (0x3002, 0x11), (0x3003, 0x22)]
    after (tick5 { z with mioEn := true, dataSize := true, ldMdr := true } 0x3001 0x5555 m) (·.mdr == 0x9234) ∧
    after (tick5 { z with mioEn := true, ldMdr := true } 0x3001 0x5555 m) (·.mdr == 0xFF92) ∧
    after (tick5 { z with mioEn := true, ldMdr := true } 0x3000 0x5555 m) (·.mdr == 0x0034) ∧
    after (tick5 { z with mioEn := true, rW := true, dataSize := true } 0x3003 0xBEEF m)
      (fun t => t.mem.byteAt 0x3002 == 0xEF && t.mem.byteAt 0x3003 == 0xBE) ∧
    after (tick5 { z with mioEn := true, rW := true } 0x3003 0xBEEF m)
      (fun t => t.mem.byteAt 0x3002 == 0x11 && t.mem.byteAt 0x3003 == 0xEF) ∧
    after (tick5 { z with mioEn := true, rW := true } 0x3002 0xBEEF m)
      (fun t => t.mem.byteAt 0x3002 == 0xEF && t.mem.byteAt 0x3003 == 0x22 &&
      t.memCnt == 0 && !t.ready) := by decide

/-- X9, X11: the top of memory, no wrap to address 0; X13: MDR from memory while the bus serves R7. -/
theorem test_step_memory_top :
    let m : Memory := [(0xFFFE, 0x7F), (0xFFFF, 0x80)]
    after (tick5 { z with mioEn := true, ldMdr := true } 0xFFFF 0x5555 m) (·.mdr == 0xFF80) ∧
    after (tick5 { z with mioEn := true, dataSize := true, ldMdr := true } 0xFFFF 0x5555 m) (·.mdr == 0x807F) ∧
    after (tick5 { z with mioEn := true, dataSize := true, ldMdr := true, gatePc := true, ldReg := true, drMux := true } 0x3000 0
        [(0x3000, 0x34), (0x3001, 0x12)])
      (fun t => t.mdr == 0x1234 && t.reg 7 == 0x3000 && t.lastBus == some 0x3000) := by decide

/-- L1 to L3 (MM's M10), then L8's columns 010 and 101. -/
theorem test_step_flags :
    after { onWord { z with gateMdr := true, ldCc := true } with mdr := 0 } (fun t => !t.n && t.z && !t.p) ∧
    after { onWord { z with gateMdr := true, ldCc := true } with mdr := 0x8000 } (fun t => t.n && !t.z && !t.p) ∧
    after { onWord { z with gateMdr := true, ldCc := true } with mdr := 1 } (fun t => !t.n && !t.z && t.p) ∧
    after (onWord { z with ldBen := true } 0x0400) (·.ben) ∧
    after (onWord { z with ldBen := true } 0x0A00) (!·.ben) := by decide

/-- L11 (BEN from the old flags), L12 (dispatch on the old IR), L13 (one value to every consumer), L14. -/
theorem test_step_loads :
    after { onWord { z with gateMdr := true, ldCc := true, ldBen := true } 0x0800 with mdr := 0x8000 }
      (fun t => t.n && !t.z && !t.ben) ∧
    after { onWord { z with gateMdr := true, ldIr := true, ird := true } 0x1000 with mdr := 0xF025 }
      (fun t => t.ir == 0xF025 && t.stateIdx == 1) ∧
    after { onWord { z with gatePc := true, ldMar := true, ldIr := true, ldMdr := true, ldReg := true, ldCc := true } 0x0600 with pc := 0x9ABC }
      (fun t => t.mar == 0x9ABC && t.ir == 0x9ABC && t.mdr == 0x9ABC && t.reg 3 == 0x9ABC && t.n) ∧
    after (operands (onWord { z with gateAlu := true, aluK := 3, sr1Mux := true, ldReg := true, drMux := true } 0x1283) 0 7)
      (fun t => t.reg 7 == 7 && t.reg 1 == 0) := by
  decide

/-- E2, E6, E8, E10, E16, E20. -/
theorem test_step_errors :
    after (onWord { z with gateAlu := true, gateShf := true } 0xD262) (·.fault == some .multipleBusDrivers) ∧
    after (onWord { z with gateShf := true, ldPc := true, pcMux := 3 } 0xD262) (·.fault == some .shifterReservedMode) ∧
    after (onWord { z with ldPc := true, pcMux := 3, ldMar := true }) (·.fault == some .pcMuxReserved) ∧
    after (onWord { z with ldMar := true }) (·.fault == some .busUndriven) ∧
    after (onWord { z with ldMdr := true, mioEn := true }) (·.fault == none) ∧
    after (onWord { z with j := 0 } 0xD262) (·.fault == none) := by decide

/-- E22: a write in an erring cycle does not take place, and the counter stands. -/
theorem test_step_erring_write :
    after (tick5 { z with mioEn := true, rW := true, dataSize := true, ldMar := true } 0x4000 0xBEEF [])
      (fun t => t.fault == some .busUndriven && t.mem == [] && t.memCnt == 4 && t.ready && t.mar == 0x4000) := by decide

/-- E18, E19 and B5's neighbour: PC + 2 wraps to the sentinel (Q2), PC takes the adder's sum. -/
theorem test_step_pc :
    after { onWord { z with ldPc := true, pcMux := 0, j := 1 } with pc := 0xFFFE }
      (fun t => t.pc == 0 && t.status == .halted) ∧
    after { onWord { z with ldPc := true, pcMux := 2, addr2Mux := 3, lshf1 := true } 0x4FFF with pc := 0x3002 }
      (·.pc == 0x3000) ∧
    after { onWord { z with gateMdr := true, ldPc := true, pcMux := 1 } with mdr := 0x1234 } (·.pc == 0x1234) := by decide

/-- 30_encoding R100, 20_memory R76: lines and images that fit and that do not. -/
theorem test_host_loads :
    rowOfLine "0100100100000000000000000000000000".toList = none ∧
    (rowOfLine "01001001000000000000000000000000000".toList).map (fun c => (c.cond, c.j)) = some (2, 18) ∧
    rowOfLine "0100100100000000000000000000000000x".toList = none ∧
    imagePlacements 0x3001 [0x35FD, 1] = some [(0x3001, 0x35FD), (0x3003, 1)] ∧
    imagePlacements 0xFFFE [1] = some [(0xFFFE, 1)] ∧ imagePlacements 0xFFFE [1, 2] = none := by decide

/-- 60_exceptions R277: after an error the dump shows the unchanged snapshot, CW among it. 10_state R43: a word's two lanes; the
last word of memory ends a range (log 25). -/
theorem test_host_dumps :
    after (onWord { z with ldMar := true } 0x1234) (fun t => t.status == .faulted .busUndriven &&
      (dumpRegisters t).cw == { z with ldMar := true } && (dumpRegisters t).ir == 0x1234 && (dumpRegisters t).pc == 0x3000 &&
      (dumpRegisters t).stateIdx == 18) ∧
    dumpMemory { State.reset with mem := [(0xFFFD, 1), (0xFFFE, 2)] } 0x7FFE 3 = [(0xFFFC, 0, 1), (0xFFFE, 2, 0)] := by decide

/-! ### Witnesses: for each statement with hypotheses, what meets them, clause by clause -/

/-- Every statement over `select c ir = .ok m`: each case of its conclusion has a word that selects (the words of the decode
tests above); here the bound to the statements' form. -/
theorem test_witness_select :
    (∃ m, select ({ z with ird := true, cond := 2, j := 63 } : ControlWord) 0x1283 = .ok m ∧ .seqDispatch ∈ m.ops) ∧
    (∃ m, select ({ z with cond := 3, j := 20 } : ControlWord) 0 = .ok m ∧ .seqAddrmode 20 ∈ m.ops) :=
  ⟨exists_of_selects (by decide), exists_of_selects (by decide)⟩

theorem test_witness_SequencerRowsPutOutTheNextIndex :
    selects { z with ird := true } 0 .seqDispatch ∧ selects { z with cond := 0, j := 63 } 0 (.seqNext 63) ∧
    selects { z with cond := 1 } 0 (.seqMemwait 0) ∧
    selects { z with cond := 2 } 0 (.seqBranch 0) ∧ selects { z with cond := 3, j := 63 } 0 (.seqAddrmode 63) := by decide

theorem test_witness_IdleMemoryRowClearsTheCounter :
    selects z 0 .memIdle ∧ z.mioEn = false ∧ selects { z with rW := true, dataSize := true } 0 .memIdle ∧
    ({ z with rW := true, dataSize := true } : ControlWord).mioEn = false := by decide

theorem test_witness_AccessRowsOnlyCountOnTicksOneToFour :
    State.reset.memCnt.toNat < 4 ∧ ({ State.reset with memCnt := 3 } : State).memCnt.toNat < 4 ∧
    Instr.memRdB ∈ [Instr.memRdB, .memRdW, .memWrB, .memWrW] ∧ Instr.memWrW ∈ [Instr.memRdB, .memRdW, .memWrB, .memWrW] := by
  decide

/-- The lowest and the highest address. -/
theorem test_witness_ReadRowsReadOnTheFifthTick :
    (tick5 z 0 0 [(0, 0x7F)]).memCnt = 4 ∧ (tick5 z 0xFFFF 0 [(0xFFFF, 0x80)]).memCnt = 4 := by decide

theorem test_witness_WriteRowsStoreOnTheFifthTick :
    ((tick5 z 0 0xBEEF []).memCnt = 4 ∧ (tick5 z 0 0xBEEF []).mem.wf = true) ∧
    ((tick5 z 0xFFFF 0xBE00 [(0xFFFE, 1), (0xFFFF, 0x80)]).memCnt = 4 ∧
      (tick5 z 0xFFFF 0xBE00 [(0xFFFE, 1), (0xFFFF, 0x80)]).mem.wf = true) := by decide

theorem test_witness_OperandRowsReadTheirRegisterOrImmediate :
    selects { z with gateAlu := true, sr1Mux := true } 0x0007 (.opbReg 7) ∧
    selects { z with gateAlu := true } 0x0030 (.opbImm5 0b10000) ∧
    selects { z with sr1Mux := true } 0 .sr1Ir8_6 ∧ selects z 0 .sr1Ir11_9 := by decide

/-- A transient with the given wires, on the reset snapshot. -/
def wired (c : Inflight) : State := { State.reset with cycle := c }

theorem test_witness_AluRowsComputeTheirResult :
    selects { z with aluK := 0 } 0 .aluAdd ∧ selects { z with aluK := 1 } 0 .aluAnd ∧
    selects { z with aluK := 2 } 0 .aluXor ∧ selects { z with aluK := 3 } 0 .aluPassa ∧
    (wired { Inflight.idle with opA := some 0xFFFF, opB := some 1 }).cycle.opA = some 0xFFFF ∧
    (wired { Inflight.idle with opA := some 0xFFFF, opB := some 1 }).cycle.opB = some 1 := by decide

theorem test_witness_ShifterRowsComputeTheirResult :
    (selects { z with gateShf := true } 0x0000 (.shfLshf 0 0) ∧ ({ z with gateShf := true } : ControlWord).gateShf = true ∧
    (0x0000 : Word).extractLsb' 4 2 = 0) ∧
    (selects { z with gateShf := true } 0x01DF (.shfRshfl 7 15) ∧ (0x01DF : Word).extractLsb' 4 2 = 1) ∧
    (selects { z with gateShf := true } 0x01FF (.shfRshfa 7 15) ∧ (0x01FF : Word).extractLsb' 4 2 = 3) := by decide

theorem test_witness_ReservedRowsRecordTheirError :
    selects { z with gateShf := true } 0x0020 .shfReserved ∧ selects { z with ldPc := true, pcMux := 3 } 0 .pcReserved ∧
    selects { z with pcMux := 3 } 0x0020 .pcHold ∧
    State.reset.fault = none ∧ ({ State.reset with ir := 0xD262 } : State).fault = none ∧
    ({ State.reset with ir := 0xD262 } : State).ir.extractLsb' 4 2 = 2 := by decide

theorem test_witness_OffsetRowsSignExtendTheirField :
    selects { z with addr2Mux := 0 } 0 .addr2Zero ∧ selects { z with addr2Mux := 1 } 0 .addr2Off6 ∧
    selects { z with addr2Mux := 2 } 0 .addr2Off9 ∧
    selects { z with addr2Mux := 3 } 0 .addr2Off11 := by decide

theorem test_witness_AdderRowsGiveItsTwoOperands :
    selects { z with lshf1 := true, addr1Mux := true } 0 .lshf1On ∧
    selects { z with lshf1 := true, addr1Mux := true } 0 .addr1Baser ∧ selects z 0 .lshf1Off ∧
    selects z 0 .addr1Pc ∧ (wired { Inflight.idle with off := some 0xFFFF }).cycle.off = some 0xFFFF := by decide

theorem test_witness_MarSourceRowsPutOutVectorOrSum :
    selects { z with marMux := true } 0 .marmuxAdder ∧ selects { z with marMux := false } 0 .marmuxVect8 ∧
    (wired { Inflight.idle with op1 := some 0xFFFF, op2 := some 1 }).cycle.op1 = some 0xFFFF ∧
    (wired { Inflight.idle with op1 := some 0xFFFF, op2 := some 1 }).cycle.op2 = some 1 := by decide

theorem test_witness_GateRowsDriveTheBus :
    selects { z with gatePc := true } 0 .gatePc ∧ selects { z with gateMdr := true } 0 .gateMdr ∧
    selects { z with gateAlu := true } 0 .gateAlu ∧
    selects { z with gateMarmux := true } 0 .gateMarmux ∧ selects { z with gateShf := true } 0 .gateShf ∧
    selects z 0 .busNone ∧
    (wired { Inflight.idle with alu := some 1 }).cycle.alu = some 1 ∧
    (wired { Inflight.idle with marmuxOut := some 1 }).cycle.marmuxOut = some 1 ∧
    (wired { Inflight.idle with shf := some 1 }).cycle.shf = some 1 ∧
    (wired { Inflight.idle with shf := some 1 }).ir.extractLsb' 4 2 ≠ 2 := by decide

theorem test_witness_PcRowsGiveTheNextPc :
    selects { z with pcMux := 3 } 0 .pcHold ∧ selects { z with ldPc := true } 0 .pcInc2 ∧
    selects { z with ldPc := true, pcMux := 1 } 0 .pcBus ∧
    selects { z with ldPc := true, pcMux := 2 } 0 .pcAdder ∧
    (wired { Inflight.idle with bus := some 1 }).cycle.bus = some 1 ∧
    (wired { Inflight.idle with op1 := some 1, op2 := some 2 }).cycle.op1 = some 1 ∧
    (wired { Inflight.idle with op1 := some 1, op2 := some 2 }).cycle.op2 = some 2 := by decide

theorem test_witness_LoadRowsTakeTheBusValue :
    selects { z with ldMar := true, ldIr := true, ldMdr := true, ldReg := true } 0 .ldMdrBus ∧
    ({ z with ldMar := true, ldIr := true, ldMdr := true, ldReg := true } : ControlWord).mioEn = false ∧
    selects { z with ldReg := true, drMux := true } 0 .ldRegR7 ∧
    (wired { Inflight.idle with bus := some 1 }).cycle.bus = some 1 ∧
    State.reset.fault = none ∧ State.reset.cycle.bus = none := by decide

theorem test_witness_ConsumersOfAnUndrivenBusRecordTheError :
    State.reset.fault = none ∧ State.reset.cycle.bus = none := by decide

theorem test_witness_MdrLoadFromMemoryTakesTheReadResult :
    selects { z with ldMdr := true, mioEn := true } 0 .ldMdrMem ∧
    ({ z with ldMdr := true, mioEn := true } : ControlWord).mioEn = true ∧
    (wired { Inflight.idle with readResult := some 1 }).cycle.readResult = some 1 ∧
    State.reset.cycle.readResult = none := by decide

theorem test_witness_FlagLoadSetsExactlyTheFlagOfTheBusValue :
    selects { z with ldCc := true } 0 .ldCc ∧ (wired { Inflight.idle with bus := some 0x8000 }).cycle.bus = some 0x8000 ∧
    State.reset.fault = none ∧ State.reset.cycle.bus = none := by decide

/-- Each of the three flags alone. -/
theorem test_witness_BranchEnableLoadTestsTheSetFlag :
    selects { z with ldBen := true } 0 .ldBen ∧ State.reset.oneFlag = true ∧
    ({ State.reset with n := true, z := false } : State).oneFlag = true ∧
    ({ State.reset with p := true, z := false } : State).oneFlag = true := by decide

theorem test_witness_ControlWordPackingIsABijection : 2 ^ 35 ≤ 0x800000000 := by decide

/-- Every row alone in its slot, at boundary values of its operands. -/
theorem test_witness_EncodedSelectionDecodesToItself :
    ∀ i ∈ [Instr.seqDispatch, .seqNext 63, .seqMemwait 0, .seqBranch 63, .seqAddrmode 1, .memIdle, .memRdB, .memRdW, .memWrB,
      .memWrW, .aluAdd, .aluAnd, .aluXor, .aluPassa, .sr1Ir11_9, .sr1Ir8_6, .opbReg 7, .opbImm5 31, .shfLshf 7 15, .shfRshfl 0 1,
      .shfReserved, .shfRshfa 7 0, .addr2Zero, .addr2Off6, .addr2Off9, .addr2Off11, .lshf1Off, .lshf1On, .addr1Pc, .addr1Baser,
      .marmuxVect8, .marmuxAdder, .busNone, .gatePc, .gateMdr, .gateAlu, .gateMarmux, .gateShf, .pcHold, .pcInc2, .pcBus,
      .pcAdder, .pcReserved, .ldMar, .ldIr, .ldMdrBus, .ldMdrMem, .ldCc, .ldBen, .ldRegIr, .ldRegR7],
      i.alone.wellFormed = true := by decide

/-- A row of format CW and one of format IR that apply, and one of format IR that does not for want of its gate. -/
theorem test_witness_SelectedRowsAreTheTableRowsThatApply :
    selects { z with gateShf := true } 0xD2BF (.shfRshfa 2 15) ∧
    (Instr.shfRshfa 2 15).row.applies ({ z with gateShf := true } : ControlWord) 0xD2BF = true ∧
    (Instr.shfRshfa 2 15).requirement ({ z with gateShf := true } : ControlWord) = true ∧
    (Instr.opbImm5 31).row.applies ({ z with gateShf := true } : ControlWord) 0xD2BF = true ∧
    (Instr.opbImm5 31).requirement ({ z with gateShf := true } : ControlWord) = false := by decide

/-- A running machine whose word selects rows, one whose word does not, and an instruction that answers. -/
theorem test_witness_StepRunsTheSelectedRows :
    (onWord { z with gatePc := true, ldMar := true }).Running ∧ selects { z with gatePc := true, ldMar := true } 0 .ldMar ∧
    (onWord { z with gatePc := true, gateMdr := true }).Running ∧
    select (onWord { z with gatePc := true, gateMdr := true }).cw 0 = .error .multipleBusDrivers ∧
    exec .pcHold State.reset = .next State.reset := by
  refine ⟨by decide, by decide, by decide, by decide, rfl⟩

/-- Which case of 45_cycle R251 a state is in: 0 halted, an error's code, 5 a commit. -/
def verdict (s : State) : Nat :=
  match Reference.referenceStep s with
  | .halted => 0
  | .faulted e => e.code
  | .next _ _ => 5

/-- Each case of the match: halted, an error of this cycle, an error recorded before, a cycle that commits. -/
theorem test_witness_StepAgreesWithTheSpecsStepFunction :
    verdict { State.reset with pc := 0 } = 0 ∧ verdict (onWord { z with ldMar := true }) = 4 ∧
    (onWord { z with ldMar := true }).fault = none ∧
    verdict { State.reset with fault := some .pcMuxReserved } = 3 ∧
    verdict (onWord { z with gatePc := true, ldMar := true }) = 5 := by decide

theorem test_witness_HaltedMachineNeverChanges :
    ({ State.reset with pc := 0 } : State).fault = none ∧
    ({ State.reset with pc := 0 } : State).pc = ({ State.reset with pc := 0 } : State).params.haltPc ∧
    State.reset.pc ≠ State.reset.params.haltPc := by decide

theorem test_witness_StepsStopExactlyOnARecordedError :
    ({ State.reset with fault := some .busUndriven } : State).fault = some .busUndriven ∧
    State.reset.fault = none := by decide

/-- One word per clause, the last three where an earlier clause's condition just fails. -/
theorem test_witness_ErringCycleRecordsTheLowestCodeOnly :
    ((onWord { z with gatePc := true, gateMdr := true }).Running ∧
    2 ≤ Reference.gateCount ({ z with gatePc := true, gateMdr := true } : ControlWord)) ∧
    ((onWord { z with gateShf := true, ldPc := true, pcMux := 3 } 0xD262).Running ∧
    Reference.gateCount ({ z with gateShf := true, ldPc := true, pcMux := 3 } : ControlWord) ≤ 1 ∧
      ({ z with gateShf := true, ldPc := true, pcMux := 3 } : ControlWord).gateShf = true ∧
      (0xD262 : Word).extractLsb' 4 2 = 2) ∧
    (Reference.gateCount ({ z with ldPc := true, pcMux := 3, ldMar := true } : ControlWord) ≤ 1 ∧
    ({ z with ldPc := true, pcMux := 3, ldMar := true } : ControlWord).gateShf = false ∧
      ({ z with ldPc := true, pcMux := 3, ldMar := true } : ControlWord).ldPc = true ∧
      ({ z with ldPc := true, pcMux := 3, ldMar := true } : ControlWord).pcMux = 3) ∧
    (Reference.gateCount ({ z with ldPc := true, pcMux := 1 } : ControlWord) = 0 ∧
    ({ z with ldPc := true, pcMux := 1 } : ControlWord).pcMux ≠ 3 ∧
      Reference.needsBus ({ z with ldPc := true, pcMux := 1 } : ControlWord) = true) ∧
    (Reference.gateCount ({ z with ldPc := true, pcMux := 2 } : ControlWord) ≤ 1 ∧
    ({ z with ldPc := true, pcMux := 2 } : ControlWord).gateShf = false ∧
      ({ z with ldPc := true, pcMux := 2 } : ControlWord).pcMux ≠ 3 ∧
      Reference.needsBus ({ z with ldPc := true, pcMux := 2 } : ControlWord) = false) := by decide

/-- A committing step with no load-enable, and one with LD_REG and another register than its destination. -/
theorem test_witness_UnselectedRegistersAreCarriedOver :
    after (onWord { z with j := 0 }) (·.fault == none) ∧ z.ldMar = false ∧ z.ldReg = false ∧
    after (onWord { z with gatePc := true, ldReg := true } 0x0600) (·.fault == none) ∧
    (2 : RegIdx) ≠ (0x0600 : Word).extractLsb' 9 3 ∧
    (6 : RegIdx) ≠ 7 := by decide

theorem test_witness_CommittingStepLatchesIndexAndWord :
    (onWord { z with cond := 1, j := 35 }).Running ∧
    after (onWord { z with cond := 1, j := 35 }) (·.fault == none) := by decide

/-- A step that stores, one that does not, an erring one; addresses just outside the stored bytes. -/
theorem test_witness_MemoryChangesOnlyByAFifthTickWrite :
    ((tick5 { z with mioEn := true, rW := true, dataSize := true } 0x3003 0xBEEF []).Running ∧
    (tick5 { z with mioEn := true, rW := true, dataSize := true } 0x3003 0xBEEF []).mem.wf = true ∧
      after (tick5 { z with mioEn := true, rW := true, dataSize := true } 0x3003 0xBEEF []) (·.fault == none) ∧
      0x3004 / 2 ≠ (0x3003 : Word).toNat / 2 ∧
      0x3001 / 2 ≠ (0x3003 : Word).toNat / 2) ∧
    (after (tick5 { z with mioEn := true, rW := true } 0x3003 0xBEEF []) (·.fault == none) ∧
    0x3002 ≠ (0x3003 : Word).toNat) ∧
    (after (tick5 { z with mioEn := true, dataSize := true } 0x3003 0xBEEF []) (·.fault == none) ∧
    ({ z with mioEn := true, dataSize := true } : ControlWord).rW = false) ∧
    after (tick5 { z with mioEn := true, rW := true, dataSize := true, ldMar := true } 0x3003 0xBEEF [])
      (·.fault != none) := by decide

theorem test_witness_StepsNeverChangeTheParameters : after (onWord { z with gatePc := true, ldMar := true }) (fun _ => true) := by decide

/-- Well-formed states that step: reset, and one in the middle of an access. -/
theorem test_witness_EveryStepKeepsTheInvariant :
    State.reset.wellFormed = true ∧ after State.reset (fun _ => true) ∧
    ({ placeControlWord State.reset { z with mioEn := true, rW := true, dataSize := true } with memCnt := 4, ready := true } : State).wellFormed = true ∧
    after { placeControlWord State.reset { z with mioEn := true, rW := true, dataSize := true } with memCnt := 4, ready := true }
      (fun _ => true) := by decide

theorem test_witness_EveryStepKeepsMemoryCanonical :
    (tick5 { z with mioEn := true, rW := true, dataSize := true } 0x3003 0x00EF [(0x3003, 1)]).mem.wf = true ∧
    after (tick5 { z with mioEn := true, rW := true, dataSize := true } 0x3003 0x00EF [(0x3003, 1)])
      (fun t => t.mem == [(0x3002, 0xEF)]) := by decide

/-- A machine in the wait loop of `row`, at the start of an access. -/
def waiting (row : StateIdx) (write wide : Bool) : State :=
  placeControlWord { State.reset with stateIdx := row }
    { ControlWord.zero with mioEn := true, cond := 1, j := row, rW := write, dataSize := wide, ldMdr := !write }

/-- The hypotheses for the lowest row and the highest with bit 1 clear, byte and word; the word is UCODE-F's own row 33. -/
theorem test_witness_WaitLoopReadTakesFiveCycles :
    (∀ wide : Bool, (waiting 0 false wide).Running ∧ (0 : StateIdx).getLsbD 1 = false ∧
      controlStoreAt (waiting 0 false wide).params 0 = (waiting 0 false wide).cw ∧ (waiting 0 false wide).memCnt = 0 ∧
      (waiting 0 false wide).ready = false) ∧
    ((waiting 61 false true).Running ∧ (61 : StateIdx).getLsbD 1 = false ∧
      controlStoreAt (waiting 61 false true).params 61 = (waiting 61 false true).cw) ∧
    (waiting 33 false true).cw = word 0b00110000101000000000000000000001010 := by decide

theorem test_witness_WaitLoopWriteTakesFiveCycles :
    (∀ wide : Bool, (waiting 0 true wide).Running ∧
      controlStoreAt (waiting 0 true wide).params 0 = (waiting 0 true wide).cw ∧ (waiting 0 true wide).memCnt = 0 ∧
      (waiting 0 true wide).ready = false ∧ (waiting 0 true wide).mem.wf = true) ∧
    ((waiting 61 true true).Running ∧ (61 : StateIdx).getLsbD 1 = false ∧
      controlStoreAt (waiting 61 true true).params 61 = (waiting 61 true true).cw) ∧
    (waiting 16 true true).cw = word 0b00101000000000000000000000000001110 := by decide

/-- An access dropped at its 5th tick, MDR loaded from the bus and not. -/
theorem test_witness_DroppedAccessHasNoEffect :
    ((tick5 { z with rW := true, dataSize := true } 0x3000 0xBEEF []).Running ∧
    ({ z with rW := true, dataSize := true } : ControlWord).mioEn = false ∧
      after (tick5 { z with rW := true, dataSize := true } 0x3000 0xBEEF []) (·.fault == none)) ∧
    ((tick5 { z with gatePc := true, ldMdr := true } 0x3000 0xBEEF []).Running ∧
    ({ z with gatePc := true, ldMdr := true } : ControlWord).mioEn = false ∧
      after (tick5 { z with gatePc := true, ldMdr := true } 0x3000 0xBEEF []) (·.fault == none)) := by decide

/-- One word per clause. -/
theorem test_witness_UnreadFieldsDoNotChangeTheCycle :
    ((onWord { z with ird := true }).Running ∧ Reference.errorOf ({ z with ird := true } : ControlWord) 0 = none ∧
    ({ z with ird := true } : ControlWord).ird = true ∧
      ({ z with ird := true } : ControlWord).ldPc = false ∧ ({ z with ird := true } : ControlWord).ldReg = false ∧
      ({ z with ird := true } : ControlWord).gateAlu = false ∧
      ({ z with ird := true } : ControlWord).gateMarmux = false ∧ ({ z with ird := true } : ControlWord).mioEn = false) ∧
    ((onWord { z with gateMarmux := true, ldPc := true, pcMux := 1 }).Running ∧
    Reference.errorOf ({ z with gateMarmux := true, ldPc := true, pcMux := 1 } : ControlWord) 0 = none ∧
      ({ z with gateMarmux := true, ldPc := true, pcMux := 1 } : ControlWord).pcMux ≠ 2 ∧
      ({ z with gateMarmux := true, ldPc := true, pcMux := 1 } : ControlWord).marMux = false) := by decide

/-- Every consumer at once, and the PC load from the bus. -/
theorem test_witness_EveryConsumerReceivesTheSameBusValue :
    let w : ControlWord :=
      { z with gateMdr := true, ldMar := true, ldIr := true, ldMdr := true, ldReg := true, ldCc := true, ldPc := true, pcMux := 1 }
    (onWord w).Running ∧ after (onWord w) (·.fault == none) ∧ w.ldMar = true ∧ w.ldIr = true ∧
    w.ldMdr = true ∧ w.mioEn = false ∧ w.ldReg = true ∧ w.ldPc = true ∧ w.pcMux = 1 ∧
    w.ldCc = true := by decide

/-- One word per gate, and no gate. -/
theorem test_witness_BusCarriesTheValueOfTheGatedUnit :
    ∀ w ∈ ([{ z with gatePc := true }, { z with gateMdr := true }, { z with gateAlu := true },
      { z with gateMarmux := true }, { z with gateShf := true }, { z with j := 0 }] : List ControlWord),
      (onWord w).Running ∧ after (onWord w) (·.fault == none) := by decide

/-- Every row of the store after reset, and of the store with one row that gates the shifter, is clean. -/
theorem test_cleanStore_reset : cleanStore State.reset.params := by
  intro i
  simp [controlStoreAt, State.reset, Params.default]
  decide

theorem test_cleanStore_shifterWord : cleanStore (placeControlWord { State.reset with ir := 0x0020 } shifterWord).params := by
  intro i
  simp only [controlStoreAt, placeControlWord, State.reset, Params.default, Vector.getElem_set, Vector.getElem_replicate]
  split <;> decide

/-- The all-zero word commits; the word that gates the shifter errs in its reserved mode. Both stores are clean (above). -/
theorem test_witness_CleanControlStoreLeavesOnlyTheShifterError :
    State.reset.fault = none ∧ State.reset.wordLatched = true ∧ after State.reset (·.fault == none) ∧
    (placeControlWord { State.reset with ir := 0x0020 } shifterWord).fault = none ∧
    (placeControlWord { State.reset with ir := 0x0020 } shifterWord).wordLatched = true ∧
    after (placeControlWord { State.reset with ir := 0x0020 } shifterWord)
      (·.fault == some .shifterReservedMode) := by decide

/-- Both operand forms; destinations 0 and 7. -/
theorem test_witness_AddMicroinstructionWritesSumAndFlags :
    (onWord { z with gateAlu := true, aluK := 0, sr1Mux := true, ldReg := true, ldCc := true, j := 18 } 0x1042).Running ∧
    (onWord { z with gateAlu := true, aluK := 0, sr1Mux := true, ldReg := true, ldCc := true, j := 18 } 0x1E7F).Running ∧
    ({ z with gateAlu := true, aluK := 0, sr1Mux := true, ldReg := true, ldCc := true, j := 18 } : ControlWord) =
      { ControlWord.zero with gateAlu := true, sr1Mux := true, ldReg := true, ldCc := true, j := 18 } ∧
    (0x1042 : Word).getLsbD 5 = false ∧ (0x1E7F : Word).getLsbD 5 = true := by decide

/-- One committing word per test. -/
theorem test_witness_LoadsOfACycleAreNotSeenByItsTests :
    ∀ w ∈ ([{ z with gateMdr := true, ldIr := true, ird := true, ldBen := true },
      { z with gateMdr := true, ldIr := true, cond := 2, ldBen := true },
      { z with gateMdr := true, ldIr := true, cond := 1, ldBen := true },
      { z with gateMdr := true, ldIr := true, cond := 3, ldBen := true }] : List ControlWord),
      (onWord w).Running ∧ after (onWord w) (·.fault == none) ∧ w.ldBen = true ∧ (onWord w).oneFlag = true := by decide

/-- The fetch word of UCODE-F row 18 at an ordinary PC, and at the one whose increment is the sentinel. -/
theorem test_witness_FetchWordMovesPcToMarAndIncrements :
    (onWord (word 0b00010000110000011000000000000000000)).Running ∧
    word 0b00010000110000011000000000000000000 =
      { ControlWord.zero with gatePc := true, ldMar := true, ldPc := true, j := 33 } ∧
    ({ onWord (word 0b00010000110000011000000000000000000) with pc := 0xFFFE } : State).Running ∧
    State.reset.params.haltPc.toNat = ((0xFFFE : Word).toNat + 2) % 65536 := by decide

theorem test_witness_MemoryReadsBackWhatWasWritten :
    Memory.wf [] = true ∧ Memory.wf [(0xFFFE, 0x7F), (0xFFFF, 0x80)] = true ∧
    (0xFFFF : Word).toNat / 2 = (0xFFFE : Word).toNat / 2 := by
  decide

/-- An image up to the last word, its last word's index and an address below it; one word more passes the bound. -/
theorem test_witness_ImageWordsStandInMemoryAtReset :
    imagePlacements 0xFFFC [1, 2] = some [(0xFFFC, 1), (0xFFFE, 2)] ∧ (1 : Nat) < [1, 2].length ∧
    0xFFFB / 2 < (0xFFFC : Word).toNat / 2 ∧ 32768 < (0xFFFC : Word).toNat / 2 + [1, 2, 3].length := by decide

/-- A machine that runs and takes a step, here into the sentinel; a halted one; a faulted one. -/
theorem test_witness_RunForStopsAtTheEndOfTheRun :
    (onWord { z with ldPc := true }).status = .running ∧ after (onWord { z with ldPc := true }) (·.pc == 0x3002) ∧
    ({ onWord { z with ldPc := true } with pc := 0xFFFE } : State).status = .running ∧
    after { onWord { z with ldPc := true } with pc := 0xFFFE } (·.status == .halted) ∧
    ({ State.reset with pc := 0 } : State).status ≠ .running ∧
    ({ State.reset with fault := some .busUndriven } : State).status ≠ .running ∧
    (runUntilEnd 1 { onWord { z with ldPc := true } with pc := 0xFFFE }).isSome = true := by decide

/-- UCODE-F row 28 (a read, R7 from PC in every cycle) in its own row, and a byte write with LD_BEN in the highest row. -/
theorem test_witness_AnyWaitWordTakesFiveCycles :
    let s := placeControlWord { State.reset with stateIdx := 28 } (word 0b00101110001001001000000100000001010)
    let t := placeControlWord { State.reset with stateIdx := 61 }
      { z with mioEn := true, rW := true, cond := 1, j := 61, ldBen := true }
    (s.Running ∧ (28 : StateIdx).getLsbD 1 = false ∧ s.cw.ird = false ∧ s.cw.cond = 1 ∧ s.cw.j = 28 ∧ s.cw.mioEn = true ∧
      s.cw.ldMar = false ∧ s.cw.ldIr = false ∧ s.cw.ldPc = false ∧ Reference.errorOf s.cw s.ir = none ∧
      controlStoreAt s.params 28 = s.cw ∧ s.memCnt = 0 ∧ s.ready = false ∧ s.mem.wf = true ∧
      s.cw.rW = false ∧ s.cw.ldMdr = true ∧ s.cw.dataSize = true ∧ s.cw.gatePc = true ∧ s.cw.ldReg = true) ∧
    (t.Running ∧ (61 : StateIdx).getLsbD 1 = false ∧ t.cw.ird = false ∧ t.cw.cond = 1 ∧ t.cw.j = 61 ∧ t.cw.mioEn = true ∧
      t.cw.ldMar = false ∧ t.cw.ldIr = false ∧ t.cw.ldPc = false ∧ Reference.errorOf t.cw t.ir = none ∧
      controlStoreAt t.params 61 = t.cw ∧ t.memCnt = 0 ∧ t.ready = false ∧ t.mem.wf = true ∧
      t.cw.rW = true ∧ t.cw.dataSize = false) := by decide

end Sys2Proof.Tests
end

section
/-! PROOFS. The micro-sequencer: which row a word selects, the index each row puts out (spec 40_sequencer R132 to R136, R139),
and that the index survives the rest of a committing cycle, so that STATE and CW latch it together (R137). -/

namespace Sys2Proof.Machine

open Sys2Proof

/-! ### One bit of the base is replaced (R139) -/

/-- `j` with bit `n` replaced by `b`. -/
def replaceBit (j : StateIdx) (n : Nat) (b : Bool) : StateIdx :=
  (j &&& ~~~BitVec.twoPow 6 n) ||| (if b then BitVec.twoPow 6 n else 0)

theorem getLsbD_replaceBit_self (j : StateIdx) {n : Nat} (b : Bool) (hn : n < 6) : (replaceBit j n b).getLsbD n = b := by
  cases b <;> simp [replaceBit, hn]

theorem getLsbD_replaceBit_of_ne (j : StateIdx) {n k : Nat} (b : Bool) (hk : k < 6) (hne : k ≠ n) :
    (replaceBit j n b).getLsbD k = j.getLsbD k := by
  cases b <;> simp [replaceBit, hk, hne]

theorem indexMemwait_eq_replaceBit (j : StateIdx) (ready : Bool) : indexMemwait j ready = replaceBit j 1 ready :=
  indexMemwait_eq j ready

theorem indexBranch_eq_replaceBit (j : StateIdx) (ben : Bool) : indexBranch j ben = replaceBit j 2 ben :=
  indexBranch_eq j ben

theorem indexAddrmode_eq_replaceBit (j : StateIdx) (ir : Word) : indexAddrmode j ir = replaceBit j 0 (ir.getLsbD 11) :=
  indexAddrmode_eq j ir

/-- A sequencer row whose index is the base with one bit replaced: what it puts out, bit by bit. -/
theorem putIndex_replaceBit (s : State) {j ns : StateIdx} {n : Nat} {b : Bool} (hns : ns = replaceBit j n b) (hn : n < 6) :
    ∃ out : StateIdx, putIndex ns s = .next (s.inFlight fun c => { c with ns := some out }) ∧
      out.getLsbD n = b ∧ ∀ k, k < 6 → k ≠ n → out.getLsbD k = j.getLsbD k := by
  subst hns
  exact ⟨_, rfl, getLsbD_replaceBit_self j b hn, fun _ => getLsbD_replaceBit_of_ne j b⟩

/-- Dispatch puts out the opcode, the top four bits of IR (R132). -/
theorem indexDispatch_toNat (ir : Word) : (indexDispatch ir).toNat = ir.toNat / 4096 := by
  simp [indexDispatch, irOpcode, Nat.shiftRight_eq_div_pow]
  omega

/-! ### The row in each slot of a selection -/

theorem select_seq {c : ControlWord} {ir : Word} {m : Microinstruction} (h : select c ir = .ok m) : m.seq = seqOp c := by
  unfold select at h
  split at h
  · cases h
  · cases h
    rfl

@[simp] theorem memOp_group (c : ControlWord) : (memOp c).group = .memory := by
  unfold memOp
  cases c.mioEn <;> cases c.rW <;> cases c.dataSize <;> rfl

@[simp] theorem opAOp_group (c : ControlWord) : (opAOp c).group = .operandA := by
  unfold opAOp
  cases c.sr1Mux <;> rfl

@[simp] theorem opBOp_group (ir : Word) : (opBOp ir).group = .operandB := by
  unfold opBOp
  cases irImmSelect ir <;> rfl

@[simp] theorem aluOp_group (c : ControlWord) : (aluOp c).group = .aluOp := by
  unfold aluOp
  rcases code_cases c.aluK with h | h | h | h <;> rw [h] <;> rfl

@[simp] theorem shfOp_group (ir : Word) : (shfOp ir).group = .shifter := by
  unfold shfOp
  rcases code_cases (irShiftMode ir) with h | h | h | h <;> rw [h] <;> rfl

@[simp] theorem offOp_group (c : ControlWord) : (offOp c).group = .offset := by
  unfold offOp
  rcases code_cases c.addr2Mux with h | h | h | h <;> rw [h] <;> rfl

@[simp] theorem offShiftOp_group (c : ControlWord) : (offShiftOp c).group = .offsetShift := by
  unfold offShiftOp
  cases c.lshf1 <;> rfl

@[simp] theorem baseOp_group (c : ControlWord) : (baseOp c).group = .base := by
  unfold baseOp
  cases c.addr1Mux <;> rfl

@[simp] theorem marSrcOp_group (c : ControlWord) : (marSrcOp c).group = .marSource := by
  unfold marSrcOp
  cases c.marMux <;> rfl

@[simp] theorem pcOp_group (c : ControlWord) : (pcOp c).group = .pcLoad := by
  unfold pcOp
  cases c.ldPc with
  | false => rfl
  | true => rcases code_cases c.pcMux with h | h | h | h <;> rw [h] <;> rfl

theorem busOp_group {c : ControlWord} {i : Instr} (h : busOp c = some i) : i.group = .busDriver := by
  unfold busOp at h
  split at h <;> cases h <;> rfl

theorem ldMdr_group (b : Bool) : (if b then Instr.ldMdrMem else .ldMdrBus).group = .mdrLoad := by
  cases b <;> rfl

theorem ldReg_group (b : Bool) : (if b then Instr.ldRegR7 else .ldRegIr).group = .regLoad := by
  cases b <;> rfl

@[simp] theorem loadOp_eq_some {b : Bool} {i k : Instr} : loadOp b i = some k ↔ b = true ∧ i = k := by
  cases b <;> simp [loadOp]

/-- Only the first row of a cycle is a row of the sequencer. -/
theorem group_ne_sequencer_of_mem_tail {c : ControlWord} {ir : Word} {m : Microinstruction} (h : select c ir = .ok m) :
    ∀ i ∈ m.ops.tail, i.group ≠ .sequencer := by
  unfold select at h
  split at h
  next => cases h
  next bus hbus =>
    cases h
    have hloads : Instr.ldMar.group ≠ .sequencer ∧ Instr.ldIr.group ≠ .sequencer ∧ Instr.ldCc.group ≠ .sequencer ∧
        Instr.ldBen.group ≠ .sequencer := by decide
    simp [Microinstruction.ops, or_imp, forall_and, busOp_group hbus, ldMdr_group, ldReg_group, hloads]

/-! ### No other row writes the sequencer's output -/

theorem raise_fault_ne_none (s : State) (e : Fault) : (s.raise e).fault ≠ none := by simp

theorem withBus_keeps_ns {s t : State} {f : Word → Inflight → Inflight} (h : withBus s f = .next t)
    (ht : t.fault = none) (hf : ∀ v c, (f v c).ns = c.ns) : t.cycle.ns = s.cycle.ns := by
  rcases withBus_cases s f with ⟨-, hw⟩ | ⟨v, -, hw⟩ <;> rw [hw] at h <;> cases h
  · exact absurd ht (raise_fault_ne_none s _)
  · exact hf v s.cycle

theorem memTick_keeps_ns {s t : State} {f : Inflight → Inflight} (h : memTick s f = .next t) (hf : ∀ c, (f c).ns = c.ns) :
    t.cycle.ns = s.cycle.ns := by
  cases h
  simp only [State.inFlight_cycle]
  split
  · exact hf _
  · rfl

theorem exec_keeps_ns {i : Instr} {s t : State} (hi : i.group ≠ .sequencer) (h : exec i s = .next t)
    (ht : t.fault = none) : t.cycle.ns = s.cycle.ns := by
  cases i
  case seqDispatch | seqNext | seqMemwait | seqBranch | seqAddrmode => exact absurd rfl hi
  case memRdB | memRdW | memWrB | memWrW =>
    simp only [exec, execMemRdB, execMemRdW, execMemWrB, execMemWrW] at h
    exact memTick_keeps_ns h fun _ => rfl
  case pcBus | ldMar | ldIr | ldMdrBus | ldCc | ldRegIr | ldRegR7 => exact withBus_keeps_ns h ht fun _ _ => rfl
  case shfReserved | pcReserved =>
    cases h
    exact absurd ht (raise_fault_ne_none s _)
  case gateShf =>
    simp only [exec, execGateShf] at h
    split at h <;> cases h
    · exact absurd ht (raise_fault_ne_none s _)
    · rfl
  all_goals
    cases h
    rfl

theorem runOps_keeps_ns {l : List Instr} {s t : State} (hl : ∀ i ∈ l, i.group ≠ .sequencer) (hs : s.fault = none)
    (h : runOps l s = .next t) (ht : t.fault = none) : t.cycle.ns = s.cycle.ns := by
  induction l generalizing s with
  | nil =>
    cases h
    rfl
  | cons i rest ih =>
    obtain ⟨hi, hrest⟩ := List.forall_mem_cons.mp hl
    rcases exec_cases i s with ⟨f, hf⟩ | ⟨e, he⟩
    · rw [runOps_wrote hs hf] at h
      exact (ih hrest (s := s.inFlight f) hs h).trans (exec_keeps_ns hi hf hs)
    · rw [runOps_raised hs he] at h
      cases h
      exact absurd ht (raise_fault_ne_none s e)

theorem snap_fault {s : State} {c : Inflight} : (snap s c).fault = s.fault := rfl

/-- A cycle that meets no error ends with the next index in its transient. -/
theorem runOps_select_ns {s t : State} {m : Microinstruction} (hm : select s.cw s.ir = .ok m) (hs : s.fault = none)
    (h : runOps m.ops s.openCycle = .next t) (ht : t.fault = none) : t.cycle.ns = some (Reference.nextIndex s) := by
  have hops : m.ops = seqOp s.cw :: m.ops.tail := by rw [← select_seq hm]; rfl
  rw [hops, snap_idle, run_seq hs] at h
  exact runOps_keeps_ns (group_ne_sequencer_of_mem_tail hm) (snap_fault.trans hs) h ht

end Sys2Proof.Machine

open Sys2Proof Sys2Proof.Machine

/-- Settles O1: the selected row is `seqOp`'s, and the three tests put out the base with one bit replaced. -/
theorem sequencerRowsPutOutTheNextIndex : Obligations.SequencerRowsPutOutTheNextIndex := by
  refine ⟨fun c ir m h => select_seq h, fun s j => ⟨?dispatch, rfl, ?memwait, ?branch, ?addrmode⟩⟩
  case dispatch => exact ⟨indexDispatch s.ir, rfl, indexDispatch_toNat s.ir⟩
  case memwait => exact putIndex_replaceBit s (indexMemwait_eq_replaceBit j s.ready) (by decide)
  case branch => exact putIndex_replaceBit s (indexBranch_eq_replaceBit j s.ben) (by decide)
  case addrmode => exact putIndex_replaceBit s (indexAddrmode_eq_replaceBit j s.ir) (by decide)

/-- Settles O31: of the four things a step can do, only a commit answers a state without error from a running machine, and its
transient holds the next index. -/
theorem committingStepLatchesIndexAndWord : Obligations.CommittingStepLatchesIndexAndWord := by
  rintro s t ⟨hfault, hpc⟩ hstep ht
  rcases step_cases s with ⟨e, he, -⟩ | ⟨-, hhalt, -⟩ | ⟨-, e, hraise⟩ | ⟨-, m, f, hm, hrun, hcommit⟩
  · simp [hfault] at he
  · exact absurd hhalt hpc
  · rw [hraise] at hstep
    cases hstep
    exact absurd ht (raise_fault_ne_none _ e)
  · rw [hcommit] at hstep
    cases hstep
    have hns := runOps_select_ns hm hfault hrun hfault
    simp only [State.commit_stateIdx, State.commit_cw, hns]
    exact ⟨rfl, rfl⟩
end

section
/-! PROOFS. The memory row of a selection and its idle case (spec 41_memory_timing R157). -/

namespace Sys2Proof.Machine

open Sys2Proof

theorem select_mem {c : ControlWord} {ir : Word} {m : Microinstruction} (h : select c ir = .ok m) : m.mem = memOp c := by
  unfold select at h
  split at h
  · cases h
  · cases h
    rfl

theorem memOp_of_not_mioEn {c : ControlWord} (h : c.mioEn = false) : memOp c = .memIdle := by
  simp [memOp, h]

theorem exec_memIdle (s : State) :
    exec .memIdle s = .next (s.inFlight fun c => { c with memCnt := some 0, ready := some false }) := rfl

end Sys2Proof.Machine

open Sys2Proof Sys2Proof.Machine

/-- Settles O2: the selected row is `memOp`'s, which tests MIO_EN before R_W and DATA_SIZE; the idle row does not look at the
state. -/
theorem idleMemoryRowClearsTheCounter : Obligations.IdleMemoryRowClearsTheCounter :=
  ⟨fun _ _ _ hm hidle => (select_mem hm).trans (memOp_of_not_mioEn hidle), exec_memIdle⟩
end

section
/-! PROOFS. The ALU and the shifter: which row a word selects for each, and what the row puts into the transient
(spec 42_datapath_units R172 to R178, R180). -/

namespace Sys2Proof.Machine

open Sys2Proof

/-! ### The two slots of a selection -/

theorem select_alu_shf {c : ControlWord} {ir : Word} {m : Microinstruction} (h : select c ir = .ok m) :
    m.alu = aluOp c ∧ m.shf = loadOp c.gateShf (shfOp ir) := by
  unfold select at h
  split at h
  · cases h
  · cases h
    exact ⟨rfl, rfl⟩

theorem select_shf_of_gateShf {c : ControlWord} {ir : Word} {m : Microinstruction} (h : select c ir = .ok m)
    (hg : c.gateShf = true) : m.shf = some (shfOp ir) :=
  (select_alu_shf h).2.trans (loadOp_eq_some.mpr ⟨hg, rfl⟩)

/-! ### The ALU (R172 to R175) -/

theorem aluBinary_of_operands {s : State} {a b : Word} (f : Word → Word → Word) (ha : s.cycle.opA = some a)
    (hb : s.cycle.opB = some b) : aluBinary f s = .next (s.inFlight fun c => { c with alu := some (f a b) }) := by
  simp only [aluBinary, State.inFlight, ha, hb]

theorem exec_aluPassa_of_operand {s : State} {a : Word} (ha : s.cycle.opA = some a) :
    exec .aluPassa s = .next (s.inFlight fun c => { c with alu := some a }) := by
  simp only [exec, execAluPassa, State.inFlight, ha]

/-! ### The shifter (R176 to R178, R180) -/

theorem shfOp_of_mode_zero {ir : Word} (h : irShiftMode ir = 0) : shfOp ir = .shfLshf (irBase ir) (irAmount ir) := by
  simp [shfOp, h]

theorem shfOp_of_mode_one {ir : Word} (h : irShiftMode ir = 1) : shfOp ir = .shfRshfl (irBase ir) (irAmount ir) := by
  simp [shfOp, h]

theorem shfOp_of_mode_three {ir : Word} (h : irShiftMode ir = 3) : shfOp ir = .shfRshfa (irBase ir) (irAmount ir) := by
  simp [shfOp, h]

theorem shiftLeft_toNat (src : Word) (amt : BitVec 4) :
    (shiftLeft src amt).toNat = (src.toNat * 2 ^ amt.toNat) % 65536 := by
  rw [shiftLeft, BitVec.toNat_shiftLeft, Nat.shiftLeft_eq]

theorem shiftRight_toNat (src : Word) (amt : BitVec 4) : (shiftRight src amt).toNat = src.toNat / 2 ^ amt.toNat := by
  rw [shiftRight, BitVec.toNat_ushiftRight, Nat.shiftRight_eq_div_pow]

/-- Dividing the signed value rounds toward minus infinity: `/` on integers is the floor for a positive divisor. -/
theorem shiftRightArith_toInt (src : Word) (amt : BitVec 4) :
    (shiftRightArith src amt).toInt = src.toInt / 2 ^ amt.toNat := by
  rw [shiftRightArith, BitVec.toInt_sshiftRight, Int.shiftRight_eq_div_pow]
  norm_cast

end Sys2Proof.Machine

open Sys2Proof Sys2Proof.Machine

/-- Settles O7: the selected row is `aluOp`'s; with both operands in flight the three binary rows apply their operation, and
the pass-through needs operand A only. -/
theorem aluRowsComputeTheirResult : Obligations.AluRowsComputeTheirResult := by
  refine ⟨fun c ir m h => (select_alu_shf h).1, fun s a ha => exec_aluPassa_of_operand ha, fun s a b ha hb => ⟨?add, ?and, ?xor⟩⟩
  case add => exact ⟨_, aluBinary_of_operands (· + ·) ha hb, BitVec.toNat_add a b⟩
  case and => exact ⟨_, aluBinary_of_operands (· &&& ·) ha hb, fun _ => BitVec.getLsbD_and⟩
  case xor => exact ⟨_, aluBinary_of_operands (· ^^^ ·) ha hb, fun _ => BitVec.getLsbD_xor⟩

/-- Settles O8: under GATE_SHF the selected row is `shfOp`'s, and each row puts out its shift, read as an arithmetic operation
on the source's unsigned or signed value. -/
theorem shifterRowsComputeTheirResult : Obligations.ShifterRowsComputeTheirResult := by
  refine ⟨fun c ir m h hg => ?select, fun s r n => ⟨?left, ?right, ?arith⟩⟩
  case select =>
    have hm := select_shf_of_gateShf h hg
    exact ⟨fun h0 => hm.trans (congrArg some (shfOp_of_mode_zero h0)),
      fun h1 => hm.trans (congrArg some (shfOp_of_mode_one h1)),
      fun h3 => hm.trans (congrArg some (shfOp_of_mode_three h3))⟩
  case left => exact ⟨_, rfl, shiftLeft_toNat (s.reg r) n⟩
  case right => exact ⟨_, rfl, shiftRight_toNat (s.reg r) n⟩
  case arith => exact ⟨_, rfl, shiftRightArith_toInt (s.reg r) n⟩
end

section
/-! PROOFS. A whole cycle: the rows that a word selects, run in the order of a cycle, are the spec's step function (45_cycle
R251), and from that the few things a step can do, which every later proof about a step cites. -/

namespace Sys2Proof.Machine

open Sys2Proof Reference

/-! ### The rows before the bus -/

/-- The transient of a cycle when its bus row is reached. -/
def unitsOut (s : State) : Inflight :=
  { Inflight.idle with
    ns := some (nextIndex s)
    memCnt := some (nextCount s)
    ready := some (nextReady s)
    readResult := readResult s
    store := pendingStore s
    opA := some (operandA s)
    opB := if s.cw.gateAlu then some (operandB s) else none
    alu := aluFrom s.cw.aluK (some (operandA s)) (if s.cw.gateAlu then some (operandB s) else none)
    shf := if s.cw.gateShf then shfOut s else none
    off := some (adderOffset s)
    op1 := some (if s.cw.lshf1 then adderOffset s <<< 1 else adderOffset s)
    op2 := some (adderBase s)
    marmuxOut := some (marmuxOut s) }

theorem unitsOut_alu {s : State} (h : s.cw.gateAlu = true) : (unitsOut s).alu = some (aluOut s) := by
  simp only [unitsOut, h, if_true]
  exact aluFrom_operands s

/-- The shifter has no output exactly in its reserved mode (42_datapath_units R179). -/
theorem shfOut_eq_none_iff (s : State) : shfOut s = none ↔ irShiftMode s.ir = 2 := by
  unfold shfOut
  rcases code_cases (irShiftMode s.ir) with h | h | h | h <;> simp [h]

/-- The rows of the units, as `Microinstruction.ops` lists them. -/
def unitRows (c : ControlWord) (ir : Word) : List Instr :=
  seqOp c :: memOp c :: opAOp c :: ((loadOp c.gateAlu (opBOp ir)).toList ++ aluOp c ::
    ((loadOp c.gateShf (shfOp ir)).toList ++ [offOp c, offShiftOp c, baseOp c, marSrcOp c]))

section Units

variable {s : State} {c : Inflight} {rest : List Instr} (hs : s.fault = none)
include hs

theorem run_opB_slot : runOps ((loadOp s.cw.gateAlu (opBOp s.ir)).toList ++ rest) (snap s c) =
    runOps rest (snap s { c with opB := if s.cw.gateAlu then some (operandB s) else c.opB }) := by
  cases s.cw.gateAlu with
  | false => rfl
  | true => exact run_opB hs

theorem run_shf_slot (h : ¬(s.cw.gateShf = true ∧ irShiftMode s.ir = 2)) :
    runOps ((loadOp s.cw.gateShf (shfOp s.ir)).toList ++ rest) (snap s c) =
      runOps rest (snap s { c with shf := if s.cw.gateShf then shfOut s else c.shf }) := by
  cases hg : s.cw.gateShf with
  | false => rfl
  | true =>
    obtain ⟨v, hv⟩ := Option.ne_none_iff_exists'.mp (mt (shfOut_eq_none_iff s).mp fun hm => h ⟨hg, hm⟩)
    rw [hv]
    exact run_shf hs hv

/-- Without a gated reserved mode the rows of the units leave `unitsOut`. -/
theorem run_units (h : ¬(s.cw.gateShf = true ∧ irShiftMode s.ir = 2)) :
    runOps (unitRows s.cw s.ir ++ rest) s.openCycle = runOps rest (snap s (unitsOut s)) := by
  simp only [unitRows, List.cons_append, List.append_assoc, List.nil_append, snap_idle]
  rw [run_seq hs, run_mem hs, run_opA hs, run_opB_slot hs, run_alu hs, run_shf_slot hs h, run_off hs, run_offShift hs,
    run_base hs, run_marSrc hs]
  congr 2
  simp only [unitsOut, marmuxOut, adderOut_eq, Inflight.adder, Inflight.idle, Option.map_some, Option.or_none]
  cases s.cw.marMux <;> rfl

/-- With the reserved mode gated they record its error. -/
theorem run_units_reserved (hg : s.cw.gateShf = true) (hm : irShiftMode s.ir = 2) :
    runOps (unitRows s.cw s.ir ++ rest) s.openCycle = .next (s.openCycle.raise .shifterReservedMode) := by
  simp only [unitRows, List.cons_append, List.append_assoc, List.nil_append, snap_idle]
  rw [run_seq hs, run_mem hs, run_opA hs, run_opB_slot hs, run_alu hs, hg]
  exact run_shf_reserved hs ((shfOut_eq_none_iff s).mpr hm)

/-! ### The bus row -/

omit hs in
/-- A word selects no bus row exactly when two or more gates are set (30_encoding R96). -/
theorem busOp_eq_none_iff (c : ControlWord) : busOp c = none ↔ 2 ≤ gateCount c := by
  unfold busOp gateCount
  cases c.gatePc <;> cases c.gateMdr <;> cases c.gateAlu <;> cases c.gateMarmux <;> cases c.gateShf <;> decide

omit hs in
/-- The bus row by the gate set, the others being clear. -/
theorem busOp_eq_some {c : ControlWord} {i : Instr} (h : busOp c = some i) :
    i = if c.gatePc then .gatePc else if c.gateMdr then .gateMdr else if c.gateAlu then .gateAlu
      else if c.gateMarmux then .gateMarmux else if c.gateShf then .gateShf else .busNone := by
  unfold busOp at h
  split at h <;> cases h <;> simp [*]

/-- The transient after the bus row. -/
def busOut (s : State) : Inflight := { unitsOut s with bus := busOf s }

theorem run_bus {i : Instr} (hi : busOp s.cw = some i) (h : ¬(s.cw.gateShf = true ∧ irShiftMode s.ir = 2)) :
    runOps (i :: rest) (snap s (unitsOut s)) = runOps rest (snap s (busOut s)) := by
  rw [busOp_eq_some hi]
  unfold busOut busOf
  split
  · exact runOps_snap hs _ rfl rfl
  split
  · exact runOps_snap hs _ rfl rfl
  split
  · next ha =>
    exact runOps_snap (i := .gateAlu) hs (fun c => { c with bus := c.alu }) rfl
      (congrArg (fun out => { unitsOut s with bus := out }) (unitsOut_alu ha))
  split
  · exact runOps_snap hs _ rfl rfl
  split
  · next hg =>
    have hm : irShiftMode s.ir ≠ 2 := fun hm => h ⟨hg, hm⟩
    exact runOps_snap hs (fun c => { c with bus := c.shf }) (if_neg hm) (by simp only [unitsOut, hg, if_true])
  · exact runOps_snap hs _ rfl rfl

/-! ### The loads -/

/-- A load from the bus, driven or not: `d` is the transient it leaves if it meets no error. -/
theorem run_busLoad {b : Bool} {i : Instr} {f : Word → Inflight → Inflight} {d : Inflight}
    (hi : exec i (snap s c) = withBus (snap s c) f) (hload : b = true → ∀ v, c.bus = some v → f v c = d)
    (hkeep : b = false → c = d) :
    runOps ((loadOp b i).toList ++ rest) (snap s c) =
      if b && c.bus.isNone then .next (s.openCycle.raise .busUndriven) else runOps rest (snap s d) := by
  cases hb : c.bus with
  | none =>
    rw [run_load_undriven hs hi hb]
    cases b with
    | false => simp [hkeep]
    | true => rfl
  | some v =>
    rw [run_load hs hi hb]
    cases b with
    | false => simp [hkeep]
    | true => simp [hload rfl v hb]

theorem run_ldMar : runOps ((loadOp s.cw.ldMar .ldMar).toList ++ rest) (snap s c) =
    if s.cw.ldMar && c.bus.isNone then .next (s.openCycle.raise .busUndriven)
    else runOps rest (snap s { c with mar := if s.cw.ldMar then c.bus else c.mar }) :=
  run_busLoad hs rfl (fun h v hv => by simp [h, hv]) (fun h => by simp [h])

theorem run_ldIr : runOps ((loadOp s.cw.ldIr .ldIr).toList ++ rest) (snap s c) =
    if s.cw.ldIr && c.bus.isNone then .next (s.openCycle.raise .busUndriven)
    else runOps rest (snap s { c with ir := if s.cw.ldIr then c.bus else c.ir }) :=
  run_busLoad hs rfl (fun h v hv => by simp [h, hv]) (fun h => by simp [h])

theorem run_ldMdr :
    runOps ((loadOp s.cw.ldMdr (if s.cw.mioEn then .ldMdrMem else .ldMdrBus)).toList ++ rest) (snap s c) =
    if (s.cw.ldMdr && !s.cw.mioEn) && c.bus.isNone then .next (s.openCycle.raise .busUndriven)
    else runOps rest (snap s { c with mdr := if s.cw.ldMdr then (if s.cw.mioEn then c.readResult else c.bus) else c.mdr }) := by
  cases hm : s.cw.mioEn with
  | false =>
    simpa using run_busLoad (s := s) (c := c) (rest := rest) (b := s.cw.ldMdr) (i := .ldMdrBus)
      (d := { c with mdr := if s.cw.ldMdr then c.bus else c.mdr }) hs rfl (fun h v hv => by simp [h, hv])
      (fun h => by simp [h])
  | true =>
    simp only [if_true, run_ldMdrMem hs, Bool.not_true, Bool.and_false, Bool.false_and, Bool.false_eq_true, if_false]
    cases s.cw.ldMdr <;> rfl

theorem run_ldCc : runOps ((loadOp s.cw.ldCc .ldCc).toList ++ rest) (snap s c) =
    if s.cw.ldCc && c.bus.isNone then .next (s.openCycle.raise .busUndriven)
    else runOps rest (snap s { c with flags := if s.cw.ldCc then c.bus.map flagsOf else c.flags }) :=
  run_busLoad hs rfl (fun h v hv => by simp [h, hv]) (fun h => by simp [h])

theorem run_ldBen_slot : runOps ((loadOp s.cw.ldBen .ldBen).toList ++ rest) (snap s c) =
    runOps rest (snap s { c with ben := if s.cw.ldBen then some (benOf s.ir s.n s.z s.p) else c.ben }) := by
  rw [run_ldBen hs]
  cases s.cw.ldBen <;> rfl

theorem run_ldReg :
    runOps ((loadOp s.cw.ldReg (if s.cw.drMux then .ldRegR7 else .ldRegIr)).toList ++ rest) (snap s c) =
    if s.cw.ldReg && c.bus.isNone then .next (s.openCycle.raise .busUndriven)
    else runOps rest (snap s { c with
      reg := if s.cw.ldReg then c.bus.map fun v => (if s.cw.drMux then 7 else irDr s.ir, v) else c.reg }) := by
  cases s.cw.drMux with
  | false =>
    exact run_busLoad (f := fun v c => { c with reg := some (irDr s.ir, v) }) hs rfl (fun h v hv => by simp [h, hv])
      (fun h => by simp [h])
  | true => exact run_busLoad hs rfl (fun h v hv => by simp [h, hv]) (fun h => by simp [h])

/-- The load rows, as `Microinstruction.ops` lists them. -/
def loadRows (c : ControlWord) : List Instr :=
  (loadOp c.ldMar .ldMar).toList ++ ((loadOp c.ldIr .ldIr).toList ++
    ((loadOp c.ldMdr (if c.mioEn then .ldMdrMem else .ldMdrBus)).toList ++ ((loadOp c.ldCc .ldCc).toList ++
    ((loadOp c.ldBen .ldBen).toList ++ ((loadOp c.ldReg (if c.drMux then .ldRegR7 else .ldRegIr)).toList ++ [])))))

/-- A load row of the word takes the bus. -/
def loadsNeedBus (c : ControlWord) : Bool := c.ldMar || c.ldIr || c.ldMdr && !c.mioEn || c.ldCc || c.ldReg

/-- The transient after the load rows, where no consumer meets an undriven bus. -/
def loadsOut (s : State) (c : Inflight) : Inflight :=
  { c with
    mar := if s.cw.ldMar then c.bus else c.mar
    ir := if s.cw.ldIr then c.bus else c.ir
    mdr := if s.cw.ldMdr then (if s.cw.mioEn then c.readResult else c.bus) else c.mdr
    flags := if s.cw.ldCc then c.bus.map flagsOf else c.flags
    ben := if s.cw.ldBen then some (benOf s.ir s.n s.z s.p) else c.ben
    reg := if s.cw.ldReg then c.bus.map fun v => (if s.cw.drMux then 7 else irDr s.ir, v) else c.reg }

theorem run_loads : runOps (loadRows s.cw) (snap s c) =
    if loadsNeedBus s.cw && c.bus.isNone then .next (s.openCycle.raise .busUndriven) else .next (snap s (loadsOut s c)) := by
  rw [loadRows, run_ldMar hs, run_ldIr hs, run_ldMdr hs, run_ldCc hs, run_ldBen_slot hs, run_ldReg hs]
  simp only [← ite_or]
  refine if_congr ?_ rfl rfl
  simp only [loadsNeedBus, Bool.and_eq_true, Bool.or_eq_true]
  tauto

end Units

/-! ### The whole cycle -/

/-- The value PC takes, if it is loaded and its mux has that input. -/
def pcLoaded (s : State) : Option Word :=
  if s.cw.ldPc then
    (if s.cw.pcMux = 0 then some (s.pc + 2) else if s.cw.pcMux = 1 then busOf s else some (adderOut s))
  else none

/-- The transient at the end of a cycle that meets no error. -/
def cycleOut (s : State) : Inflight := loadsOut s { busOut s with pc := pcLoaded s }

section
variable (s : State)

theorem cycleOut_mar : (cycleOut s).mar = if s.cw.ldMar then busOf s else none := rfl
theorem cycleOut_ir : (cycleOut s).ir = if s.cw.ldIr then busOf s else none := rfl
theorem cycleOut_mdr : (cycleOut s).mdr =
    if s.cw.ldMdr then (if s.cw.mioEn then readResult s else busOf s) else none := rfl
theorem cycleOut_ben : (cycleOut s).ben = if s.cw.ldBen then some (benOf s.ir s.n s.z s.p) else none := rfl
theorem cycleOut_reg : (cycleOut s).reg =
    if s.cw.ldReg then (busOf s).map fun v => (if s.cw.drMux then 7 else irDr s.ir, v) else none := rfl

end

theorem ops_of_select {c : ControlWord} {ir : Word} {m : Microinstruction} (h : select c ir = .ok m) :
    ∃ bus, busOp c = some bus ∧ m.ops = unitRows c ir ++ bus :: pcOp c :: loadRows c := by
  unfold select at h
  split at h
  · cases h
  · next bus hbus =>
    cases h
    exact ⟨bus, hbus, by simp [Microinstruction.ops, unitRows, loadRows]⟩

/-- The bus is undriven exactly when no gate is set, the shifter's reserved mode left aside (43_bus_arbiter R213). -/
theorem busOf_isNone {s : State} (h : ¬(s.cw.gateShf = true ∧ irShiftMode s.ir = 2)) :
    (busOf s).isNone = decide (gateCount s.cw = 0) := by
  have hshf : s.cw.gateShf = true → (shfOut s).isNone = false := fun hg => by
    simpa [Option.isSome_iff_ne_none] using mt (shfOut_eq_none_iff s).mp fun hm => h ⟨hg, hm⟩
  unfold busOf gateCount
  cases s.cw.gatePc <;> cases s.cw.gateMdr <;> cases s.cw.gateAlu <;> cases s.cw.gateMarmux <;>
    cases hg : s.cw.gateShf <;> simp [hshf, hg]

/-- What a latch takes from a load whose bus is driven. -/
theorem getD_load {α : Type} {b : Bool} {bus : Option Word} {f : Word → α} (h : b = true → bus.isSome = true) (x : α) :
    (if b then bus.map f else none).getD x = if b then f (bus.getD 0) else x := by
  cases b with
  | false => rfl
  | true =>
    obtain ⟨v, hv⟩ := Option.isSome_iff_exists.mp (h rfl)
    simp [hv]

theorem pcLoaded_getD {s : State} (hp : ¬(s.cw.ldPc = true ∧ s.cw.pcMux = 3))
    (hb : s.cw.ldPc = true ∧ s.cw.pcMux = 1 → (busOf s).isSome = true) :
    (pcLoaded s).getD s.pc = (latched s (busOf s)).pc := by
  simp only [pcLoaded, latched]
  cases hl : s.cw.ldPc with
  | false => rfl
  | true =>
    rcases code_cases s.cw.pcMux with h | h | h | h
    · simp [h]
    · obtain ⟨v, hv⟩ := Option.isSome_iff_exists.mp (hb ⟨hl, h⟩)
      simp [h, hv]
    · simp [h]
    · exact absurd ⟨hl, h⟩ hp

theorem mdrLoaded_getD {s : State} (hb : s.cw.ldMdr = true ∧ s.cw.mioEn = false → (busOf s).isSome = true) :
    (cycleOut s).mdr.getD s.mdr = (latched s (busOf s)).mdr := by
  simp only [cycleOut_mdr, latched]
  cases hm : s.cw.mioEn with
  | true => cases s.cw.ldMdr <;> rfl
  | false => simpa using getD_load (f := id) (fun hl => hb ⟨hl, hm⟩) s.mdr

/-- The commit of the whole cycle is the latch update of the spec (44_latch_update), where no consumer meets an undriven bus. -/
theorem commit_cycleOut {s : State} (hp : ¬(s.cw.ldPc = true ∧ s.cw.pcMux = 3))
    (hb : needsBus s.cw = true → (busOf s).isSome = true) : (snap s (cycleOut s)).commit = latched s (busOf s) := by
  simp only [needsBus, Bool.or_eq_true, or_imp, Bool.and_eq_true, Bool.not_eq_true', beq_iff_eq] at hb
  obtain ⟨⟨⟨⟨⟨hmar, hir⟩, hcc⟩, hreg⟩, hmdr⟩, hpc⟩ := hb
  have hpcs : (cycleOut s).pc.getD s.pc = (latched s (busOf s)).pc := pcLoaded_getD hp hpc
  have hmars : (cycleOut s).mar.getD s.mar = (latched s (busOf s)).mar := by
    simpa [cycleOut_mar, latched] using getD_load (f := id) hmar s.mar
  have hirs : (cycleOut s).ir.getD s.ir = (latched s (busOf s)).ir := by
    simpa [cycleOut_ir, latched] using getD_load (f := id) hir s.ir
  have hflags : (cycleOut s).flags.getD (s.n, s.z, s.p) =
      ((latched s (busOf s)).n, (latched s (busOf s)).z, (latched s (busOf s)).p) := by
    refine (getD_load (f := flagsOf) hcc (s.n, s.z, s.p)).trans ?_
    simp only [latched]
    cases s.cw.ldCc <;> rfl
  have hbens : (cycleOut s).ben.getD s.ben = (latched s (busOf s)).ben := by
    simp only [cycleOut_ben, latched]
    cases s.cw.ldBen <;> rfl
  have hregs : ((cycleOut s).reg.map fun w => setReg s.regs w.1 w.2).getD s.regs = (latched s (busOf s)).regs := by
    have h := getD_load (f := fun v => setReg s.regs (if s.cw.drMux then 7 else irDr s.ir) v) hreg s.regs
    simp only [cycleOut_reg, latched, ← h]
    cases s.cw.ldReg <;> simp [Function.comp_def]
  have hmems : applyStore s.mem (cycleOut s).store = (latched s (busOf s)).mem := applyStore_pendingStore s
  simp only [State.commit, snap, hpcs, mdrLoaded_getD hmdr, hmars, hirs, hflags, hbens, hregs, hmems]
  rfl

theorem needsBus_eq (c : ControlWord) : needsBus c = (c.ldPc && c.pcMux == 1 || loadsNeedBus c) := by
  unfold needsBus loadsNeedBus
  ac_rfl

/-- What the rows of a word leave, the shifter's reserved mode left aside: the two later errors in the order of their codes, or
the whole transient (60_exceptions R275). -/
theorem runOps_select {s : State} {m : Microinstruction} (hs : s.fault = none) (hm : select s.cw s.ir = .ok m)
    (h : ¬(s.cw.gateShf = true ∧ irShiftMode s.ir = 2)) :
    runOps m.ops s.openCycle = if s.cw.ldPc && s.cw.pcMux == 3 then .next (s.openCycle.raise .pcMuxReserved)
      else if needsBus s.cw && (busOf s).isNone then .next (s.openCycle.raise .busUndriven)
      else .next (snap s (cycleOut s)) := by
  obtain ⟨bus, hbus, hops⟩ := ops_of_select hm
  rw [hops, run_units hs h, run_bus hs hbus h, run_pc hs (show (busOut s).adder = some (adderOut s) from rfl), run_loads hs]
  simp only [← ite_or]
  refine if_congr Iff.rfl rfl (if_congr ?_ rfl rfl)
  rw [needsBus_eq, ← Bool.or_eq_true, ← Bool.and_or_distrib_right]
  rfl

/-- A cycle is the spec's: the error of lowest code, or the latch update (45_cycle R251). -/
theorem runCycle_eq {s : State} (hs : s.fault = none) : runCycle s = match errorOf s.cw s.ir with
    | some e => .next (s.openCycle.raise e)
    | none => .next (latched s (busOf s)) := by
  cases hsel : select s.cw s.ir with
  | error r =>
    have hg : 2 ≤ gateCount s.cw := by
      refine (busOp_eq_none_iff s.cw).mp ?_
      unfold select at hsel
      split at hsel
      · assumption
      · cases hsel
    simp [runCycle, errorOf, hsel, hg]
  | ok m =>
    obtain ⟨bus, hbus, hops⟩ := ops_of_select hsel
    have hg : ¬ 2 ≤ gateCount s.cw := mt (busOp_eq_none_iff s.cw).mpr (by simp [hbus])
    have hrun : runCycle s = finishCycle (runOps m.ops s.openCycle) := by simp [runCycle, hsel]
    by_cases h : s.cw.gateShf = true ∧ irShiftMode s.ir = 2
    · simp [hrun, hops, run_units_reserved hs h.1 h.2, errorOf, hg, h, finishCycle, hs]
    · have hshf : ¬(s.cw.gateShf && irShiftMode s.ir == 2) = true := by simpa using h
      rw [hrun, runOps_select hs hsel h, busOf_isNone h, Bool.and_comm (needsBus s.cw), errorOf, if_neg hg, if_neg hshf]
      split
      · simp [finishCycle, hs]
      next hp =>
        split
        · simp [finishCycle, hs]
        next hu =>
          rw [← busOf_isNone h, Bool.and_comm] at hu
          have hcommit := commit_cycleOut (s := s) (by simpa using hp) (fun hn => by simpa [hn, Option.isSome_iff_ne_none] using hu)
          simp [finishCycle, snap_fault, hs, hcommit]

/-! ### What a step can do -/

theorem openCycle_raise {s : State} (hs : s.fault = none) (e : Fault) :
    s.openCycle.raise e = { s with fault := some e, cycle := .idle } := by
  simp [State.raise, State.openCycle, hs]

theorem step_of_fault {s : State} {e : Fault} (h : s.fault = some e) : step s = .fault e := by
  simp [step, stepCycle, h]

theorem step_of_halted {s : State} (hs : s.fault = none) (h : s.pc = s.params.haltPc) : step s = .next s := by
  simp [step, stepCycle, hs, State.halted, h]

theorem step_of_running {s : State} (h : s.Running) : step s = runCycle s := by
  simp [step, stepCycle, State.halted, h.1, h.2]

theorem step_of_error {s : State} {e : Fault} (h : s.Running) (he : errorOf s.cw s.ir = some e) :
    step s = .next { s with fault := some e, cycle := .idle } := by
  rw [step_of_running h, runCycle_eq h.1, he, ← openCycle_raise h.1 e]

theorem step_of_clean {s : State} (h : s.Running) (he : errorOf s.cw s.ir = none) :
    step s = .next (latched s (busOf s)) := by
  rw [step_of_running h, runCycle_eq h.1, he]

/-- The three ways a step answers a next state: halted, erring, committing. -/
theorem step_next_cases {s t : State} (h : step s = .next t) :
    (s.fault = none ∧ s.pc = s.params.haltPc ∧ t = s) ∨
    (s.Running ∧ ∃ e, errorOf s.cw s.ir = some e ∧ t = { s with fault := some e, cycle := .idle }) ∨
    (s.Running ∧ errorOf s.cw s.ir = none ∧ t = latched s (busOf s)) := by
  cases hf : s.fault with
  | some e => simp [step_of_fault hf] at h
  | none =>
    by_cases hp : s.pc = s.params.haltPc
    · rw [step_of_halted hf hp] at h
      exact .inl ⟨rfl, hp, (Host.Outcome.next.inj h).symm⟩
    · cases he : errorOf s.cw s.ir with
      | some e =>
        rw [step_of_error ⟨hf, hp⟩ he] at h
        exact .inr (.inl ⟨⟨hf, hp⟩, e, rfl, (Host.Outcome.next.inj h).symm⟩)
      | none =>
        rw [step_of_clean ⟨hf, hp⟩ he] at h
        exact .inr (.inr ⟨⟨hf, hp⟩, rfl, (Host.Outcome.next.inj h).symm⟩)

/-- A step of a running machine that records no error is a latch update. -/
theorem step_commits {s t : State} (hr : s.Running) (h : step s = .next t) (ht : t.fault = none) :
    errorOf s.cw s.ir = none ∧ t = latched s (busOf s) := by
  rcases step_next_cases h with ⟨-, hp, -⟩ | ⟨-, e, -, rfl⟩ | ⟨-, he, rfl⟩
  · exact absurd hp hr.2
  · cases ht
  · exact ⟨he, rfl⟩

end Sys2Proof.Machine

open Sys2Proof Sys2Proof.Machine

/-- Settles O26: a recorded error and the sentinel are checked first in both; on a running machine the cycle is the spec's by
`runCycle_eq`. -/
theorem stepAgreesWithTheSpecsStepFunction : Obligations.StepAgreesWithTheSpecsStepFunction := by
  intro s
  unfold Reference.referenceStep
  cases hf : s.fault with
  | some e => simp [step_of_fault hf]
  | none =>
    by_cases hp : s.pc = s.params.haltPc
    · simp [hp, step_of_halted hf hp]
    · cases he : Reference.errorOf s.cw s.ir with
      | some e => simp [hp, step_of_error ⟨hf, hp⟩ he]
      | none => simp [hp, step_of_clean ⟨hf, hp⟩ he, Reference.latched]
end

section
/-! PROOFS. The encoding: packing a control word and reading it back are inverse (30_encoding R91), a selection decodes from its
own encoding (R92), and the rows selected are the rows of opcode_table.json that apply (R96). -/

namespace Sys2Proof

open Machine

/-! ### The packing (R91) -/

/-- Neighbouring slices of a word join to one slice. -/
theorem extractLsb'_append_neighbour {n : Nat} (w : BitVec n) {lo hi a b : Nat} (h : hi = lo + b) :
    w.extractLsb' hi a ++ w.extractLsb' lo b = w.extractLsb' lo (a + b) := by
  subst h
  ext i hi
  simp only [BitVec.getElem_append, BitVec.getElem_extractLsb']
  split
  · rfl
  · rw [show lo + b + (i - b) = lo + i by omega]

theorem ofBool_getLsbD {n : Nat} (w : BitVec n) (k : Nat) : BitVec.ofBool (w.getLsbD k) = w.extractLsb' k 1 := by
  ext i hi
  simp [show i = 0 by omega]

theorem toBits_ofBits (w : BitVec 35) : (ControlWord.ofBits w).toBits = w := by
  simp only [ControlWord.ofBits, ControlWord.toBits, ofBool_getLsbD]
  simp (disch := decide) only [extractLsb'_append_neighbour]
  exact BitVec.extractLsb'_eq_self

theorem append_inj_iff {n m : Nat} {x x' : BitVec n} {y y' : BitVec m} : x ++ y = x' ++ y' ↔ x = x' ∧ y = y' := by
  constructor
  · intro h
    have hy : y = y' := by
      have hw := congrArg (BitVec.setWidth m) h
      rwa [BitVec.setWidth_append_eq_right, BitVec.setWidth_append_eq_right] at hw
    subst hy
    exact ⟨(BitVec.append_left_inj y).mp h, rfl⟩
  · rintro ⟨rfl, rfl⟩
    rfl

theorem toBits_injective {c d : ControlWord} (h : c.toBits = d.toBits) : c = d := by
  obtain ⟨⟩ := c
  obtain ⟨⟩ := d
  change (_ : BitVec (34 + 1)) = _ at h
  simp only [ControlWord.toBits, append_inj_iff, BitVec.ofBool_eq_iff_eq] at h
  simp [h]

theorem ofBits_toBits (c : ControlWord) : ControlWord.ofBits c.toBits = c := toBits_injective (toBits_ofBits c.toBits)

/-! ### The masks of opcode_table.json, bit by bit (R96) -/

/-- The bits a mask of at most 35 bits tests. -/
def maskBits (mask : Nat) : List Nat := (List.range 35).filter mask.testBit

/-- `x & mask = pattern` bit by bit, for a pattern inside a mask of at most 35 bits. -/
theorem and_mask_eq_iff {x mask pattern : Nat} (hm : mask < 2 ^ 35) (hp : pattern &&& mask = pattern) :
    x &&& mask = pattern ↔ ∀ k ∈ maskBits mask, x.testBit k = pattern.testBit k := by
  constructor
  · rintro rfl k hk
    simp [(List.mem_filter.mp hk).2]
  · intro h
    refine Nat.eq_of_testBit_eq fun k => ?_
    rw [Nat.testBit_and]
    cases hk : mask.testBit k with
    | false => rw [← hp, Nat.testBit_and, hk, Bool.and_false, Bool.and_false]
    | true =>
      have hlt : k < 35 := by
        by_contra hge
        rw [Nat.testBit_lt_two_pow (hm.trans_le (Nat.pow_le_pow_right (by decide) (by omega)))] at hk
        cases hk
      rw [Bool.and_true, h k (List.mem_filter.mpr ⟨List.mem_range.mpr hlt, hk⟩)]

theorem row_mask (i : Instr) : i.row.mask < 2 ^ 35 ∧ i.row.pattern &&& i.row.mask = i.row.pattern := by
  cases i <;> simp only [Instr.row] <;> decide

theorem applies_iff (i : Instr) (w : BitVec 35) (ir : Word) : i.row.applies (ControlWord.ofBits w) ir = true ↔
    ∀ k ∈ maskBits i.row.mask, (bif i.row.ofIr then ir.getLsbD k else w.getLsbD k) = i.row.pattern.testBit k := by
  rw [TableRow.applies, beq_iff_eq, and_mask_eq_iff (row_mask i).1 (row_mask i).2, toBits_ofBits]
  cases i.row.ofIr <;> rfl

/-- The bits that the masks of opcode_table.json test. -/
theorem maskBits_table :
    maskBits 0x700000000 = [32, 33, 34] ∧ maskBits 0x400000000 = [34] ∧ maskBits 0x8 = [3] ∧ maskBits 0xE = [1, 2, 3] ∧
    maskBits 0x30 = [4, 5] ∧ maskBits 0x400 = [10] ∧ maskBits 0x20 = [5] ∧ maskBits 0x180 = [7, 8] ∧ maskBits 0x1 = [0] ∧
    maskBits 0x200 = [9] ∧ maskBits 0x40 = [6] ∧ maskBits 0x7C000 = [14, 15, 16, 17, 18] ∧ maskBits 0x80000 = [19] ∧
    maskBits 0x83000 = [12, 13, 19] ∧ maskBits 0x2000000 = [25] ∧ maskBits 0x800000 = [23] ∧
    maskBits 0x1000008 = [3, 24] ∧ maskBits 0x100000 = [20] ∧ maskBits 0x400000 = [22] ∧ maskBits 0x200800 = [11, 21] := by
  decide

theorem extractLsb'_two {n : Nat} (w : BitVec n) (k : Nat) :
    w.extractLsb' k 2 = BitVec.ofBool (w.getLsbD (k + 1)) ++ BitVec.ofBool (w.getLsbD k) := by
  rw [ofBool_getLsbD, ofBool_getLsbD, extractLsb'_append_neighbour w rfl]

/-! Per group: a row applies exactly when the row selected in its slot is that row. -/

section Groups

variable {w : BitVec 35} {ir : Word} {i : Instr}

theorem applies_sequencer (h : i.group = .sequencer) :
    i.row.applies (ControlWord.ofBits w) ir = true ↔ (seqOp (ControlWord.ofBits w)).row = i.row := by
  rw [applies_iff]
  simp only [seqOp, ControlWord.ofBits, extractLsb'_two, apply_ite Instr.row]
  cases i <;> cases h <;> simp only [Instr.row, maskBits_table, List.forall_mem_cons, cond_false] <;>
    cases w.getLsbD 34 <;> cases w.getLsbD (32 + 1) <;> cases w.getLsbD 32 <;> simp [Nat.testBit]

theorem applies_memory (h : i.group = .memory) :
    i.row.applies (ControlWord.ofBits w) ir = true ↔ (memOp (ControlWord.ofBits w)).row = i.row := by
  rw [applies_iff]
  simp only [memOp, ControlWord.ofBits, extractLsb'_two, apply_ite Instr.row]
  cases i <;> cases h <;> simp only [Instr.row, maskBits_table, List.forall_mem_cons, cond_false] <;>
    cases w.getLsbD 3 <;> cases w.getLsbD 2 <;> cases w.getLsbD 1 <;> simp [Nat.testBit]

theorem applies_aluOp (h : i.group = .aluOp) :
    i.row.applies (ControlWord.ofBits w) ir = true ↔ (aluOp (ControlWord.ofBits w)).row = i.row := by
  rw [applies_iff]
  simp only [aluOp, ControlWord.ofBits, extractLsb'_two, apply_ite Instr.row]
  cases i <;> cases h <;> simp only [Instr.row, maskBits_table, List.forall_mem_cons, cond_false] <;>
    cases w.getLsbD (4 + 1) <;> cases w.getLsbD 4 <;> simp [Nat.testBit]

theorem applies_operandA (h : i.group = .operandA) :
    i.row.applies (ControlWord.ofBits w) ir = true ↔ (opAOp (ControlWord.ofBits w)).row = i.row := by
  rw [applies_iff]
  simp only [opAOp, ControlWord.ofBits, extractLsb'_two, apply_ite Instr.row]
  cases i <;> cases h <;> simp only [Instr.row, maskBits_table, List.forall_mem_cons, cond_false] <;>
    cases w.getLsbD 10 <;> simp [Nat.testBit]

theorem applies_offset (h : i.group = .offset) :
    i.row.applies (ControlWord.ofBits w) ir = true ↔ (offOp (ControlWord.ofBits w)).row = i.row := by
  rw [applies_iff]
  simp only [offOp, ControlWord.ofBits, extractLsb'_two, apply_ite Instr.row]
  cases i <;> cases h <;> simp only [Instr.row, maskBits_table, List.forall_mem_cons, cond_false] <;>
    cases w.getLsbD (7 + 1) <;> cases w.getLsbD 7 <;> simp [Nat.testBit]

theorem applies_offsetShift (h : i.group = .offsetShift) :
    i.row.applies (ControlWord.ofBits w) ir = true ↔ (offShiftOp (ControlWord.ofBits w)).row = i.row := by
  rw [applies_iff]
  simp only [offShiftOp, ControlWord.ofBits, extractLsb'_two, apply_ite Instr.row]
  cases i <;> cases h <;> simp only [Instr.row, maskBits_table, List.forall_mem_cons, cond_false] <;>
    cases w.getLsbD 0 <;> simp [Nat.testBit]

theorem applies_base (h : i.group = .base) :
    i.row.applies (ControlWord.ofBits w) ir = true ↔ (baseOp (ControlWord.ofBits w)).row = i.row := by
  rw [applies_iff]
  simp only [baseOp, ControlWord.ofBits, extractLsb'_two, apply_ite Instr.row]
  cases i <;> cases h <;> simp only [Instr.row, maskBits_table, List.forall_mem_cons, cond_false] <;>
    cases w.getLsbD 9 <;> simp [Nat.testBit]

theorem applies_marSource (h : i.group = .marSource) :
    i.row.applies (ControlWord.ofBits w) ir = true ↔ (marSrcOp (ControlWord.ofBits w)).row = i.row := by
  rw [applies_iff]
  simp only [marSrcOp, ControlWord.ofBits, extractLsb'_two, apply_ite Instr.row]
  cases i <;> cases h <;> simp only [Instr.row, maskBits_table, List.forall_mem_cons, cond_false] <;>
    cases w.getLsbD 6 <;> simp [Nat.testBit]

theorem applies_pcLoad (h : i.group = .pcLoad) :
    i.row.applies (ControlWord.ofBits w) ir = true ↔ (pcOp (ControlWord.ofBits w)).row = i.row := by
  rw [applies_iff]
  simp only [pcOp, ControlWord.ofBits, extractLsb'_two, apply_ite Instr.row]
  cases i <;> cases h <;> simp only [Instr.row, maskBits_table, List.forall_mem_cons, cond_false] <;>
    cases w.getLsbD 19 <;> cases w.getLsbD (12 + 1) <;> cases w.getLsbD 12 <;> simp [Nat.testBit]

theorem applies_operandB (h : i.group = .operandB) :
    i.row.applies (ControlWord.ofBits w) ir = true ↔ (opBOp ir).row = i.row := by
  rw [applies_iff]
  unfold opBOp irImmSelect
  rw [apply_ite Instr.row]
  cases i <;> cases h <;> simp only [Instr.row, maskBits_table, List.forall_mem_cons, cond_true] <;>
    cases ir.getLsbD 5 <;> simp [Nat.testBit]

theorem applies_shifter (h : i.group = .shifter) :
    i.row.applies (ControlWord.ofBits w) ir = true ↔ (shfOp ir).row = i.row := by
  rw [applies_iff]
  unfold shfOp irShiftMode
  simp only [extractLsb'_two, apply_ite Instr.row]
  cases i <;> cases h <;> simp only [Instr.row, maskBits_table, List.forall_mem_cons, cond_true] <;>
    cases ir.getLsbD (4 + 1) <;> cases ir.getLsbD 4 <;> simp [Nat.testBit]

theorem applies_busDriver (h : i.group = .busDriver) :
    i.row.applies (ControlWord.ofBits w) ir = true ↔ ∃ k, busOp (ControlWord.ofBits w) = some k ∧ k.row = i.row := by
  rw [applies_iff]
  simp only [busOp, ControlWord.ofBits]
  cases i <;> cases h <;> simp only [Instr.row, maskBits_table, List.forall_mem_cons, cond_false] <;>
    cases w.getLsbD 18 <;> cases w.getLsbD 17 <;> cases w.getLsbD 16 <;> cases w.getLsbD 15 <;>
      cases w.getLsbD 14 <;> simp [Nat.testBit]

theorem applies_mdrLoad (h : i.group = .mdrLoad) : i.row.applies (ControlWord.ofBits w) ir = true ↔
    w.getLsbD 24 = true ∧ (if w.getLsbD 3 then Instr.ldMdrMem else .ldMdrBus).row = i.row := by
  rw [applies_iff, apply_ite Instr.row]
  cases i <;> cases h <;> simp only [Instr.row, maskBits_table, List.forall_mem_cons, cond_false] <;>
    cases w.getLsbD 24 <;> cases w.getLsbD 3 <;> simp [Nat.testBit]

theorem applies_regLoad (h : i.group = .regLoad) : i.row.applies (ControlWord.ofBits w) ir = true ↔
    w.getLsbD 21 = true ∧ (if w.getLsbD 11 then Instr.ldRegR7 else .ldRegIr).row = i.row := by
  rw [applies_iff, apply_ite Instr.row]
  cases i <;> cases h <;> simp only [Instr.row, maskBits_table, List.forall_mem_cons, cond_false] <;>
    cases w.getLsbD 21 <;> cases w.getLsbD 11 <;> simp [Nat.testBit]

end Groups

/-! ### The rows selected (R96) -/

/-- The row that a word and IR select in the slot of a group. -/
def slotRow (c : ControlWord) (ir : Word) : Group → Option Instr
  | .sequencer => some (seqOp c)
  | .memory => some (memOp c)
  | .operandA => some (opAOp c)
  | .operandB => loadOp c.gateAlu (opBOp ir)
  | .aluOp => some (aluOp c)
  | .shifter => loadOp c.gateShf (shfOp ir)
  | .offset => some (offOp c)
  | .offsetShift => some (offShiftOp c)
  | .base => some (baseOp c)
  | .marSource => some (marSrcOp c)
  | .busDriver => busOp c
  | .pcLoad => some (pcOp c)
  | .marLoad => loadOp c.ldMar .ldMar
  | .irLoad => loadOp c.ldIr .ldIr
  | .mdrLoad => loadOp c.ldMdr (if c.mioEn then .ldMdrMem else .ldMdrBus)
  | .ccLoad => loadOp c.ldCc .ldCc
  | .benLoad => loadOp c.ldBen .ldBen
  | .regLoad => loadOp c.ldReg (if c.drMux then .ldRegR7 else .ldRegIr)

/-- A single load row applies exactly when its load-enable is set. -/
theorem applies_singleLoad (w : BitVec 35) (ir : Word) :
    (Instr.ldMar.row.applies (ControlWord.ofBits w) ir = true ↔ (ControlWord.ofBits w).ldMar = true) ∧
    (Instr.ldIr.row.applies (ControlWord.ofBits w) ir = true ↔ (ControlWord.ofBits w).ldIr = true) ∧
    (Instr.ldCc.row.applies (ControlWord.ofBits w) ir = true ↔ (ControlWord.ofBits w).ldCc = true) ∧
    (Instr.ldBen.row.applies (ControlWord.ofBits w) ir = true ↔ (ControlWord.ofBits w).ldBen = true) := by
  rw [applies_iff, applies_iff, applies_iff, applies_iff]
  simp [Instr.row, maskBits_table, Nat.testBit, ControlWord.ofBits]

theorem exists_loadOp_row {b : Bool} {j : Instr} {r : TableRow} :
    (∃ k, loadOp b j = some k ∧ k.row = r) ↔ b = true ∧ j.row = r := by
  cases b <;> simp [loadOp]

/-- A row of the table applies, with the gate it requires, exactly when its group's slot holds that row. -/
theorem applies_iff_slotRow (c : ControlWord) (ir : Word) (i : Instr) :
    (i.row.applies c ir = true ∧ i.requirement c = true) ↔ ∃ k, slotRow c ir i.group = some k ∧ k.row = i.row := by
  obtain ⟨w, rfl⟩ : ∃ w, ControlWord.ofBits w = c := ⟨c.toBits, ofBits_toBits c⟩
  obtain ⟨hMar, hIr, hCc, hBen⟩ := applies_singleLoad w ir
  cases hg : i.group <;>
    simp only [Instr.requirement, hg, slotRow, and_true, Option.some.injEq, exists_eq_left', exists_loadOp_row]
  case sequencer => exact applies_sequencer hg
  case memory => exact applies_memory hg
  case aluOp => exact applies_aluOp hg
  case operandA => exact applies_operandA hg
  case operandB => rw [applies_operandB hg, and_comm]
  case shifter => rw [applies_shifter hg, and_comm]
  case offset => exact applies_offset hg
  case offsetShift => exact applies_offsetShift hg
  case base => exact applies_base hg
  case marSource => exact applies_marSource hg
  case busDriver => exact applies_busDriver hg
  case pcLoad => exact applies_pcLoad hg
  case mdrLoad => exact applies_mdrLoad hg
  case regLoad => exact applies_regLoad hg
  all_goals
    cases i <;> cases hg
    simp [hMar, hIr, hCc, hBen]

@[simp] theorem seqOp_group (c : ControlWord) : (seqOp c).group = .sequencer := by
  unfold seqOp
  cases c.ird with
  | true => rfl
  | false => rcases code_cases c.cond with h | h | h | h <;> rw [h] <;> rfl

theorem slotRow_group {c : ControlWord} {ir : Word} {g : Group} {i : Instr} (h : slotRow c ir g = some i) : i.group = g := by
  cases g
  case busDriver => exact busOp_group h
  case mdrLoad =>
    rw [← (loadOp_eq_some.mp h).2]
    exact ldMdr_group c.mioEn
  case regLoad =>
    rw [← (loadOp_eq_some.mp h).2]
    exact ldReg_group c.drMux
  case marLoad | irLoad | ccLoad | benLoad =>
    rw [← (loadOp_eq_some.mp h).2]
    rfl
  all_goals
    simp only [slotRow, Option.some.injEq, loadOp_eq_some] at h
    simp [← h]

/-- The groups in the order of a cycle. -/
def cycleGroups : List Group :=
  [.sequencer, .memory, .operandA, .operandB, .aluOp, .shifter, .offset, .offsetShift, .base, .marSource, .busDriver, .pcLoad,
    .marLoad, .irLoad, .mdrLoad, .ccLoad, .benLoad, .regLoad]

theorem mem_cycleGroups (g : Group) : g ∈ cycleGroups := by cases g <;> decide

theorem filterMap_cons_eq {α β : Type} (f : α → Option β) (a : α) (l : List α) :
    (a :: l).filterMap f = (f a).toList ++ l.filterMap f := by
  cases h : f a <;> simp [h]

theorem ops_eq_filterMap {c : ControlWord} {ir : Word} {m : Microinstruction} (h : select c ir = .ok m) :
    m.ops = cycleGroups.filterMap (slotRow c ir) := by
  unfold select at h
  split at h
  · cases h
  next bus hbus =>
    cases h
    simp [Microinstruction.ops, cycleGroups, filterMap_cons_eq, slotRow, hbus]

theorem mem_ops_iff {c : ControlWord} {ir : Word} {m : Microinstruction} (h : select c ir = .ok m) (i : Instr) :
    i ∈ m.ops ↔ slotRow c ir i.group = some i := by
  rw [ops_eq_filterMap h, List.mem_filterMap]
  constructor
  · rintro ⟨g, -, hg⟩
    rwa [slotRow_group hg]
  · exact fun hi => ⟨i.group, mem_cycleGroups _, hi⟩

end Sys2Proof

open Sys2Proof Sys2Proof.Machine

/-- Settles O22: a selected row is the row of its own slot, and a row applies exactly when its slot holds it. -/
theorem selectedRowsAreTheTableRowsThatApply : Obligations.SelectedRowsAreTheTableRowsThatApply := by
  intro c ir m h
  refine ⟨fun i hi => ?_, fun i hrow hreq => ?_⟩
  · exact (applies_iff_slotRow c ir i).mpr ⟨i, (mem_ops_iff h i).mp hi, rfl⟩
  · obtain ⟨k, hk, hki⟩ := (applies_iff_slotRow c ir i).mp ⟨hrow, hreq⟩
    exact ⟨k, (mem_ops_iff h k).mpr (by rwa [slotRow_group hk]), hki⟩
end

section
namespace Sys2Proof

open Machine

/-! ### Decoding what the encoder writes (R92) -/

theorem decodeControlWord_toBits (c : ControlWord) : decodeControlWord c.toBits.toNat = .ok c := by
  simp [decodeControlWord, c.toBits.isLt, ofBits_toBits]

/-! Per slot: the fields that the encoder sets select the row that stands in the slot. -/

section Slots

variable {m : Microinstruction}

theorem seqOp_encode (h : m.seq.group = .sequencer) : seqOp (encode m).1 = m.seq := by
  obtain ⟨seq⟩ := m
  cases seq <;> cases h <;> rfl

theorem memOp_encode (h : m.mem.group = .memory) : memOp (encode m).1 = m.mem := by
  obtain ⟨_, mem⟩ := m
  cases mem <;> cases h <;> rfl

theorem opAOp_encode (h : m.opA.group = .operandA) : opAOp (encode m).1 = m.opA := by
  obtain ⟨_, _, opA⟩ := m
  cases opA <;> cases h <;> rfl

theorem aluOp_encode (h : m.alu.group = .aluOp) : aluOp (encode m).1 = m.alu := by
  obtain ⟨_, _, _, _, alu⟩ := m
  cases alu <;> cases h <;> rfl

theorem offOp_encode (h : m.off.group = .offset) : offOp (encode m).1 = m.off := by
  obtain ⟨_, _, _, _, _, _, off⟩ := m
  cases off <;> cases h <;> rfl

theorem offShiftOp_encode (h : m.offShift.group = .offsetShift) : offShiftOp (encode m).1 = m.offShift := by
  obtain ⟨_, _, _, _, _, _, _, offShift⟩ := m
  cases offShift <;> cases h <;> rfl

theorem baseOp_encode (h : m.base.group = .base) : baseOp (encode m).1 = m.base := by
  obtain ⟨_, _, _, _, _, _, _, _, base⟩ := m
  cases base <;> cases h <;> rfl

theorem marSrcOp_encode (h : m.marSrc.group = .marSource) : marSrcOp (encode m).1 = m.marSrc := by
  obtain ⟨_, _, _, _, _, _, _, _, _, marSrc⟩ := m
  cases marSrc <;> cases h <;> rfl

theorem busOp_encode (h : m.bus.group = .busDriver) : busOp (encode m).1 = some m.bus := by
  obtain ⟨_, _, _, _, _, _, _, _, _, _, bus⟩ := m
  cases bus <;> cases h <;> rfl

theorem pcOp_encode (h : m.pc.group = .pcLoad) : pcOp (encode m).1 = m.pc := by
  obtain ⟨_, _, _, _, _, _, _, _, _, _, _, pc⟩ := m
  cases pc <;> cases h <;> rfl

theorem opBOp_encode {i : Instr} (h : m.opB = some i) (hi : i.group = .operandB) : opBOp (encode m).2 = i := by
  simp only [encode, h]
  cases i <;> cases hi
  case opbReg r =>
    change opBOp (r.setWidth 16) = _
    clear h
    revert r
    decide
  case opbImm5 v =>
    change opBOp (0x0020 ||| v.setWidth 16) = _
    clear h
    revert v
    decide

theorem shfOp_encode {i : Instr} (h : m.shf = some i) (hB : m.opB = none) (hi : i.group = .shifter) :
    shfOp (encode m).2 = i := by
  simp only [encode, h, hB]
  clear h hB
  cases i <;> cases hi
  case shfLshf r a => revert r a; decide
  case shfRshfl r a => revert r a; decide
  case shfReserved => rfl
  case shfRshfa r a => revert r a; decide

/-- A slot of the loads, whose row its load-enable selects. -/
theorem loadOp_isSome {o : Option Instr} {i : Instr} (h : ∀ k, o = some k → i = k) : loadOp o.isSome i = o := by
  cases o with
  | none => rfl
  | some k => exact congrArg some (h k rfl)

theorem group_of_slotOk {g : Group} {o : Option Instr} {k : Instr} (h : slotOk g o = true) (hk : o = some k) : k.group = g := by
  subst hk
  simpa [slotOk] using h

/-- The MDR row by MIO_EN (44_latch_update R224, R225). -/
theorem ldMdr_encode {k : Instr} (hk : k.group = .mdrLoad) (hbus : k = .ldMdrBus → m.mem = .memIdle)
    (hmem : k = .ldMdrMem → m.mem ≠ .memIdle) : (if (encode m).1.mioEn then Instr.ldMdrMem else .ldMdrBus) = k := by
  cases k <;> cases hk
  case ldMdrBus => simp [encode, hbus rfl]
  case ldMdrMem => simp [encode, hmem rfl]

theorem ldReg_encode {k : Instr} (h : m.ldReg = some k) (hk : k.group = .regLoad) :
    (if (encode m).1.drMux then Instr.ldRegR7 else .ldRegIr) = k := by
  cases k <;> cases hk <;> simp [encode, h]

theorem eq_ldMar {i : Instr} (h : i.group = .marLoad) : .ldMar = i := by
  cases i <;> cases h
  rfl

theorem eq_ldIr {i : Instr} (h : i.group = .irLoad) : .ldIr = i := by
  cases i <;> cases h
  rfl

theorem eq_ldCc {i : Instr} (h : i.group = .ccLoad) : .ldCc = i := by
  cases i <;> cases h
  rfl

theorem eq_ldBen {i : Instr} (h : i.group = .benLoad) : .ldBen = i := by
  cases i <;> cases h
  rfl

end Slots

/-- What the encoder writes for a well-formed selection selects it. -/
theorem select_encode {m : Microinstruction} (h : m.wellFormed = true) : select (encode m).1 (encode m).2 = .ok m := by
  simp only [Microinstruction.wellFormed, Bool.and_eq_true, Bool.or_eq_true, beq_iff_eq, bne_iff_ne, ← imp_iff_not_or] at h
  obtain ⟨⟨⟨⟨⟨⟨⟨⟨⟨⟨⟨⟨⟨⟨⟨⟨⟨⟨⟨⟨⟨hseq, hmem⟩, hopA⟩, halu⟩, hoff⟩, hoffShift⟩, hbase⟩,
    hmarSrc⟩, hbus⟩, hpc⟩, hopB⟩, hshf⟩, hldMar⟩, hldIr⟩, hldMdr⟩, hldCc⟩, hldBen⟩, hldReg⟩, halus⟩, hshfs⟩, hmdrBus⟩, hmdrMem⟩ := h
  have hB : loadOp (encode m).1.gateAlu (opBOp (encode m).2) = m.opB := by
    have hg : (encode m).1.gateAlu = m.opB.isSome := halus.symm
    rw [hg]
    exact loadOp_isSome fun k hk => opBOp_encode hk (group_of_slotOk hopB hk)
  have hS : loadOp (encode m).1.gateShf (shfOp (encode m).2) = m.shf := by
    have hg : (encode m).1.gateShf = m.shf.isSome := hshfs.symm
    rw [hg]
    refine loadOp_isSome fun k hk => shfOp_encode hk ?_ (group_of_slotOk hshf hk)
    have hb : m.bus = .gateShf := by simpa [hk] using hshfs
    simpa [hb, show (Instr.gateShf == .gateAlu) = false from rfl] using halus
  have hMar : loadOp (encode m).1.ldMar .ldMar = m.ldMar :=
    loadOp_isSome fun k hk => eq_ldMar (group_of_slotOk hldMar hk)
  have hIr : loadOp (encode m).1.ldIr .ldIr = m.ldIr := loadOp_isSome fun k hk => eq_ldIr (group_of_slotOk hldIr hk)
  have hCc : loadOp (encode m).1.ldCc .ldCc = m.ldCc := loadOp_isSome fun k hk => eq_ldCc (group_of_slotOk hldCc hk)
  have hBen : loadOp (encode m).1.ldBen .ldBen = m.ldBen :=
    loadOp_isSome fun k hk => eq_ldBen (group_of_slotOk hldBen hk)
  have hMdr : loadOp (encode m).1.ldMdr (if (encode m).1.mioEn then .ldMdrMem else .ldMdrBus) = m.ldMdr :=
    loadOp_isSome fun k hk => ldMdr_encode (group_of_slotOk hldMdr hk) (fun h => hmdrBus (hk.trans (congrArg some h)))
      (fun h => hmdrMem (hk.trans (congrArg some h)))
  have hReg : loadOp (encode m).1.ldReg (if (encode m).1.drMux then .ldRegR7 else .ldRegIr) = m.ldReg :=
    loadOp_isSome fun k hk => ldReg_encode hk (group_of_slotOk hldReg hk)
  simp only [select, busOp_encode hbus, seqOp_encode hseq, memOp_encode hmem, opAOp_encode hopA, aluOp_encode halu,
    offOp_encode hoff, offShiftOp_encode hoffShift, baseOp_encode hbase, marSrcOp_encode hmarSrc, pcOp_encode hpc, hB, hS, hMar,
    hIr, hCc, hBen, hMdr, hReg]

/-! ### Every selection is well-formed (R96) -/

theorem slotOk_loadOp {g : Group} {i : Instr} (b : Bool) (h : i.group = g) : slotOk g (loadOp b i) = true := by
  cases b <;> simp [loadOp, slotOk, h]

theorem loadOp_isSome_eq (b : Bool) (i : Instr) : (loadOp b i).isSome = b := by
  cases b <;> rfl

/-- The gate that the bus row names is the gate of the word. -/
theorem busOp_gates {c : ControlWord} {i : Instr} (h : busOp c = some i) :
    (i == .gateAlu) = c.gateAlu ∧ (i == .gateShf) = c.gateShf := by
  unfold busOp at h
  split at h <;> cases h <;> simp [*]

theorem select_wellFormed {c : ControlWord} {ir : Word} {m : Microinstruction} (h : select c ir = .ok m) :
    m.wellFormed = true := by
  unfold select at h
  split at h
  · cases h
  next bus hbus =>
    cases h
    obtain ⟨halu, hshf⟩ := busOp_gates hbus
    have hmem : memOp c = .memIdle ↔ c.mioEn = false := by
      unfold memOp
      cases c.mioEn <;> cases c.rW <;> cases c.dataSize <;> decide
    have hMar := slotOk_loadOp (g := .marLoad) (i := .ldMar) c.ldMar rfl
    have hIr := slotOk_loadOp (g := .irLoad) (i := .ldIr) c.ldIr rfl
    have hCc := slotOk_loadOp (g := .ccLoad) (i := .ldCc) c.ldCc rfl
    have hBen := slotOk_loadOp (g := .benLoad) (i := .ldBen) c.ldBen rfl
    simp only [Microinstruction.wellFormed, seqOp_group, memOp_group, opAOp_group, aluOp_group, offOp_group, offShiftOp_group,
      baseOp_group, marSrcOp_group, busOp_group hbus, pcOp_group, slotOk_loadOp, opBOp_group, shfOp_group, ldMdr_group,
      ldReg_group, loadOp_isSome_eq, halu, hshf, hMar, hIr, hCc, hBen, beq_self_eq_true, Bool.true_and]
    cases hm : c.mioEn <;> simp [hmem, hm]

end Sys2Proof

open Sys2Proof Sys2Proof.Machine

/-- Settles O20: unpacking splits the word at the fields that packing joins, and packing is injective. -/
theorem controlWordPackingIsABijection : Obligations.ControlWordPackingIsABijection :=
  ⟨toBits_ofBits, ofBits_toBits, decodeControlWord_toBits, fun _ hw => if_neg (Nat.not_lt.mpr hw)⟩

/-- Settles O21: slot by slot the encoder's fields select the row that stands in the slot. -/
theorem encodedSelectionDecodesToItself : Obligations.EncodedSelectionDecodesToItself :=
  fun m h => ⟨select_encode h, decodeControlWord_toBits (encode m).1⟩

/-- Settles O23: no bus row is selected exactly when two gates are set, and every other slot is always filled. -/
theorem selectionFailsExactlyOnTwoGates : Obligations.SelectionFailsExactlyOnTwoGates := by
  intro c ir
  have hsel : select c ir = .error .multipleBusDrivers ↔ busOp c = none := by
    unfold select
    split <;> simp [*]
  refine ⟨hsel.trans (busOp_eq_none_iff c), fun hg => ?_, fun ⟨m, hm, _⟩ => ?_⟩
  · obtain ⟨bus, hbus⟩ := Option.ne_none_iff_exists'.mp (mt (busOp_eq_none_iff c).mp (by omega))
    obtain ⟨m, hm⟩ : ∃ m, select c ir = .ok m := by simp [select, hbus]
    exact ⟨m, hm, select_wellFormed hm⟩
  · have := mt (hsel.trans (busOp_eq_none_iff c)).mpr (by simp [hm])
    omega

/-- Settles O24, by evaluating the decoder on the four words. -/
theorem wordsOfTheSpecDecode : Obligations.WordsOfTheSpecDecode := by
  unfold Obligations.WordsOfTheSpecDecode
  decide
end

section
/-! PROOFS. What every step keeps, what it leaves unchanged and when it stops (spec 10_state, 45_cycle, 60_exceptions), and the
state after reset; all from the three ways of `step_next_cases`. -/

namespace Sys2Proof.Machine

open Sys2Proof Reference

/-! ### Status, halt and recorded errors -/

theorem status_of_fault {s : State} {e : Fault} (h : s.fault = some e) : s.status = .faulted e := by
  simp [State.status, h]

theorem status_of_halted {s : State} (hs : s.fault = none) (h : s.pc = s.params.haltPc) : s.status = .halted := by
  simp [State.status, hs, State.halted, h]

theorem status_running_iff {s : State} : s.status = .running ↔ s.Running := by
  unfold State.status
  cases h : s.fault with
  | some e => simp [h]
  | none => simp [h, State.halted]

theorem step_of_no_fault {s : State} (hs : s.fault = none) : ∃ t, step s = .next t := by
  by_cases hp : s.pc = s.params.haltPc
  · exact ⟨s, step_of_halted hs hp⟩
  · cases he : errorOf s.cw s.ir with
    | some e => exact ⟨_, step_of_error ⟨hs, hp⟩ he⟩
    | none => exact ⟨_, step_of_clean ⟨hs, hp⟩ he⟩

theorem run_succ {M : Host.Core} {s t : M.State} (h : M.step s = .next t) (k : Nat) : M.run (k + 1) s = M.run k t := by
  rw [Host.Core.run, h]

/-- A state whose step is itself runs to itself. -/
theorem run_of_fixed {s : State} (h : step s = .next s) (k : Nat) : core.run k s = .next s := by
  induction k with
  | zero => rfl
  | succ k ih => exact (run_succ (M := core) h k).trans ih

/-! ### The errors of a word (60_exceptions R270 to R275) -/

/-- No error: at most one gate, no reserved code in use, no consumer of an undriven bus. -/
theorem errorOf_eq_none_iff (c : ControlWord) (ir : Word) : errorOf c ir = none ↔
    gateCount c ≤ 1 ∧ ¬(c.gateShf = true ∧ irShiftMode ir = 2) ∧ ¬(c.ldPc = true ∧ c.pcMux = 3) ∧
      ¬(gateCount c = 0 ∧ needsBus c = true) := by
  unfold errorOf
  split_ifs <;> simp_all
  omega

theorem errorOf_multipleBusDrivers {c : ControlWord} {ir : Word} (h : 2 ≤ gateCount c) :
    errorOf c ir = some .multipleBusDrivers := by
  simp [errorOf, h]

theorem errorOf_shifterReservedMode {c : ControlWord} {ir : Word} (hg : gateCount c ≤ 1) (hs : c.gateShf = true)
    (hm : irShiftMode ir = 2) : errorOf c ir = some .shifterReservedMode := by
  simp [errorOf, Nat.not_le.mpr (Nat.lt_succ_of_le hg), hs, hm]

theorem errorOf_pcMuxReserved {c : ControlWord} {ir : Word} (hg : gateCount c ≤ 1)
    (hs : ¬(c.gateShf = true ∧ irShiftMode ir = 2)) (hl : c.ldPc = true) (hm : c.pcMux = 3) :
    errorOf c ir = some .pcMuxReserved := by
  simp [errorOf, Nat.not_le.mpr (Nat.lt_succ_of_le hg), hl, hm]
  simpa using hs

theorem errorOf_busUndriven {c : ControlWord} {ir : Word} (hg : gateCount c = 0) (hp : ¬(c.ldPc = true ∧ c.pcMux = 3))
    (hn : needsBus c = true) : errorOf c ir = some .busUndriven := by
  have hs : c.gateShf = false := by
    by_contra h
    simp [gateCount, h] at hg
  simp [errorOf, hg, hs, hn]
  simpa using hp

/-! ### The latch update keeps the invariant (10_state section 4) -/

/-- The flags are the sign of the value (44_latch_update R226). -/
theorem flagsOf_eq (v : Word) : flagsOf v = (decide (v.toInt < 0), decide (v.toInt = 0), decide (0 < v.toInt)) := by
  have hn : v.getLsbD 15 = decide (v.toInt < 0) :=
    (BitVec.msb_eq_getLsbD_last v).symm.trans BitVec.msb_eq_toInt
  have hz : (v == 0) = decide (v.toInt = 0) := by
    simp [beq_eq_decide, ← BitVec.toInt_inj]
  have hp : (!decide (v.toInt = 0) && !decide (v.toInt < 0)) = decide (0 < v.toInt) := by
    simp only [← decide_not, ← Bool.decide_and]
    exact decide_eq_decide.mpr (by omega)
  simp only [flagsOf, hn, hz, hp]

/-- The flags after a load: those of the bus value. -/
theorem latched_flags {s : State} (h : s.cw.ldCc = true) (bus : Option Word) :
    (latched s bus).n = decide ((bus.getD 0).toInt < 0) ∧ (latched s bus).z = decide ((bus.getD 0).toInt = 0) ∧
    (latched s bus).p = decide (0 < (bus.getD 0).toInt) := by
  have hf : ((latched s bus).n, (latched s bus).z, (latched s bus).p) = flagsOf (bus.getD 0) := by
    simp only [latched, h, if_true]
    rfl
  rw [flagsOf_eq] at hf
  simpa using hf

theorem latched_oneFlag {s : State} (h : s.oneFlag = true) (bus : Option Word) : (latched s bus).oneFlag = true := by
  cases hc : s.cw.ldCc with
  | false => simpa [State.oneFlag, latched, hc] using h
  | true =>
    obtain ⟨hn, hz, hp⟩ := latched_flags hc bus
    simp [State.oneFlag, hn, hz, hp]
    omega

theorem latched_wordLatched (s : State) (bus : Option Word) : (latched s bus).wordLatched = true := by
  simp [State.wordLatched, latched]

theorem latched_counterOk {s : State} (h : s.counterOk = true) (bus : Option Word) : (latched s bus).counterOk = true := by
  simp only [State.counterOk, Bool.and_eq_true, decide_eq_true_eq] at h
  have hcases : s.memCnt.toNat = 0 ∨ s.memCnt.toNat = 1 ∨ s.memCnt.toNat = 2 ∨ s.memCnt.toNat = 3 ∨ s.memCnt.toNat = 4 := by
    omega
  cases hm : s.cw.mioEn with
  | false => simp [State.counterOk, latched, nextCount, nextReady, hm]
  | true => rcases hcases with h | h | h | h | h <;> simp [State.counterOk, latched, nextCount, nextReady, hm, h]

theorem latched_mem_wf {s : State} (h : s.mem.wf = true) (bus : Option Word) : (latched s bus).mem.wf = true := by
  have := applyStore_wf (pendingStore s) h
  rwa [applyStore_pendingStore] at this

/-- The latch update takes a register that no load-enable names from the old state. -/
theorem latched_carries (s : State) (bus : Option Word) :
    (s.cw.ldMar = false → (latched s bus).mar = s.mar) ∧ (s.cw.ldIr = false → (latched s bus).ir = s.ir) ∧
    (s.cw.ldPc = false → (latched s bus).pc = s.pc) ∧ (s.cw.ldMdr = false → (latched s bus).mdr = s.mdr) ∧
    (s.cw.ldCc = false → (latched s bus).n = s.n ∧ (latched s bus).z = s.z ∧ (latched s bus).p = s.p) ∧
    (s.cw.ldBen = false → (latched s bus).ben = s.ben) := by
  refine ⟨?_, ?_, ?_, ?_, ?_, ?_⟩ <;> intro h <;> simp [latched, h]

/-! ### The general registers -/

theorem setReg_reg (regs : Vector Word 8) (d r : RegIdx) (v : Word) :
    (setReg regs d v)[r.toNat]'r.isLt = if r = d then v else regs[r.toNat]'r.isLt := by
  unfold setReg
  rw [Vector.getElem_set]
  simp [BitVec.toNat_eq, eq_comm]

/-- The destination register that DRMUX selects (44_latch_update R228). -/
def destination (s : State) : RegIdx := if s.cw.drMux then 7 else irDr s.ir

theorem latched_reg (s : State) (bus : Option Word) (r : RegIdx) :
    (latched s bus).reg r = if s.cw.ldReg = true ∧ r = destination s then bus.getD 0 else s.reg r := by
  cases h : s.cw.ldReg with
  | false => simp [State.reg, latched, h]
  | true =>
    have := setReg_reg s.regs (destination s) r (bus.getD 0)
    simpa [State.reg, latched, h, destination] using this

end Sys2Proof.Machine

open Sys2Proof Sys2Proof.Machine

/-- Settles O34: the halted and the erring step change nothing the invariant speaks of; the latch update keeps each part. -/
theorem everyStepKeepsTheInvariant : Obligations.EveryStepKeepsTheInvariant := by
  intro s t hs h
  rcases step_next_cases h with ⟨-, -, rfl⟩ | ⟨-, e, -, rfl⟩ | ⟨-, -, rfl⟩
  · exact hs
  · simp only [State.wellFormed, Bool.and_eq_true] at hs
    obtain ⟨⟨⟨⟨hword, hflag⟩, hcnt⟩, hmem⟩, -⟩ := hs
    simpa [State.wellFormed, hmem] using ⟨⟨hword, hflag⟩, hcnt⟩
  · simp only [State.wellFormed, Bool.and_eq_true] at hs
    obtain ⟨⟨⟨⟨-, hflag⟩, hcnt⟩, hmem⟩, -⟩ := hs
    simp [State.wellFormed, latched_wordLatched, latched_oneFlag hflag, latched_counterOk hcnt, latched_mem_wf hmem]
    rfl

/-- Settles O35: of the three ways only the latch update writes memory. -/
theorem everyStepKeepsMemoryCanonical : Obligations.EveryStepKeepsMemoryCanonical := by
  intro s t hs h
  rcases step_next_cases h with ⟨-, -, rfl⟩ | ⟨-, e, -, rfl⟩ | ⟨-, -, rfl⟩
  · exact hs
  · exact hs
  · exact latched_mem_wf hs _

/-- Settles O33: none of the three ways writes the parameters. -/
theorem stepsNeverChangeTheParameters : Obligations.StepsNeverChangeTheParameters := by
  intro s t h
  have hp : t.params = s.params := by
    rcases step_next_cases h with ⟨-, -, rfl⟩ | ⟨-, e, -, rfl⟩ | ⟨-, -, rfl⟩ <;> rfl
  exact ⟨hp, fun i => by rw [hp]⟩

/-- Settles O30: the latch update carries over what it does not load; the other two ways load nothing. -/
theorem unselectedRegistersAreCarriedOver : Obligations.UnselectedRegistersAreCarriedOver := by
  intro s t h
  rcases step_next_cases h with ⟨-, -, rfl⟩ | ⟨-, e, -, rfl⟩ | ⟨-, -, rfl⟩
  · simp
  · simp [State.reg]
  · obtain ⟨hmar, hir, hpc, hmdr, hcc, hben⟩ := latched_carries s (Reference.busOf s)
    refine ⟨hmar, hir, hpc, hmdr, hcc, hben, fun r hr => ?_⟩
    rw [latched_reg, if_neg]
    rintro ⟨hl, hd⟩
    rcases hr with hr | hr
    · simp [hl] at hr
    · exact hr hd

/-- Settles O27: the halted step is a fixed point, so every run from there is. -/
theorem haltedMachineNeverChanges : Obligations.HaltedMachineNeverChanges :=
  fun _ hs => ⟨fun hp => ⟨status_of_halted hs hp, run_of_fixed (step_of_halted hs hp)⟩,
    fun hp => status_running_iff.mpr ⟨hs, hp⟩⟩

/-- Settles O28: without a recorded error a step answers a next state, with one it stops. -/
theorem stepsStopExactlyOnARecordedError : Obligations.StepsStopExactlyOnARecordedError := by
  intro s
  cases hf : s.fault with
  | some e => simp [step_of_fault hf, status_of_fault hf, eq_comm]
  | none =>
    obtain ⟨t, ht⟩ := step_of_no_fault hf
    simp [ht]

/-- Settles O29: `errorOf` tests the four conditions in the order of their codes. -/
theorem erringCycleRecordsTheLowestCodeOnly : Obligations.ErringCycleRecordsTheLowestCodeOnly := by
  intro s hr
  refine ⟨fun hg => ?_, fun hg hshf hm => ?_, fun hg hshf hpc hmux => ?_, fun hg hpc hn => ?_, fun hg hshf hpc hb => ?_⟩
  · exact step_of_error hr (errorOf_multipleBusDrivers hg)
  · exact step_of_error hr (errorOf_shifterReservedMode hg hshf hm)
  · exact step_of_error hr (errorOf_pcMuxReserved hg hshf hpc hmux)
  · exact step_of_error hr (errorOf_busUndriven hg hpc hn)
  · exact ⟨_, step_of_clean hr ((errorOf_eq_none_iff _ _).mpr ⟨hg, hshf, hpc, hb⟩), hr.1⟩

/-- Settles O36: reset sets Z only, clears the counter and READY, and latches the row of INITIAL_STATE. -/
theorem resetMeetsTheInvariant : Obligations.ResetMeetsTheInvariant := by
  have h : ∀ p : Params, (resetWith p).wellFormed = true := fun p => by
    simp [State.wellFormed, State.wordLatched, State.oneFlag, State.counterOk, resetWith, Memory.wf_ofImage]
  exact ⟨resetWith_default ▸ h Params.default, h⟩

/-- Settles O37: the fields of `resetWith`, of which `State.reset` is the default case. -/
theorem resetValuesUnderAnyParameters : Obligations.ResetValuesUnderAnyParameters := by
  refine ⟨fun p => ?_, resetWith_default.symm, fun a => rfl⟩
  simp [resetWith, State.reg]

/-- Settles O25: `step` runs a cycle, whose two cases are those of the selection. -/
theorem stepRunsTheSelectedRows : Obligations.StepRunsTheSelectedRows := by
  intro s hr
  refine ⟨fun m hm => ?_, fun r hsel => ?_, fun i rest t u h => ?_⟩
  · simp [step_of_running hr, runCycle, hm, State.openCycle]
  · simp [step_of_running hr, runCycle, hsel, openCycle_raise hr.1]
  · simp [runOps, h]
end

section
/-! PROOFS. Memory: the bytes a read takes and a store leaves (spec 20_memory), the program image at reset, and the frame of memory
under a step (41_memory_timing, 44_latch_update). -/

namespace Sys2Proof.Machine

open Sys2Proof Reference

/-! ### Addresses (20_memory R60 to R62) -/

theorem laneAddr_low (a : Word) : laneAddr a false = 2 * (a.toNat / 2) := by
  have h := a.isLt
  simp [laneAddr, Nat.shiftRight_eq_div_pow]
  omega

theorem laneAddr_high (a : Word) : laneAddr a true = 2 * (a.toNat / 2) + 1 := by
  have h := a.isLt
  simp [laneAddr, Nat.shiftRight_eq_div_pow]
  omega

/-! ### Reads -/

theorem readWord_toNat (m : Memory) (a : Word) : (m.readWord a).toNat =
    (m.byteAt (2 * (a.toNat / 2))).toNat + 256 * (m.byteAt (2 * (a.toNat / 2) + 1)).toNat := by
  rw [Memory.readWord, laneAddr_low, laneAddr_high, BitVec.toNat_append, ← Nat.shiftLeft_add_eq_or_of_lt (BitVec.isLt _),
    Nat.shiftLeft_eq]
  omega

theorem readByte_toInt (m : Memory) (a : Word) : (m.readByte a).toInt = (m.byteAt a.toNat).toInt := by
  rw [Memory.readByte, laneAddr_self, BitVec.toInt_signExtend_of_le (by decide)]

/-! ### Stores, byte by byte -/

theorem byteAt_setByte {m : Memory} (h : m.wf = true) (k i : Nat) (v : Byte) :
    (m.setByte k v).byteAt i = if i = k then v else m.byteAt i := by
  split
  next hi => exact hi ▸ Memory.byteAt_setByte_self m 0 i v h
  next hi => exact Memory.byteAt_setByte_ne m v hi

theorem byteAt_writeWord {m : Memory} (h : m.wf = true) (a v : Word) (i : Nat) : (m.writeWord a v).byteAt i =
    if i = 2 * (a.toNat / 2) then v.extractLsb' 0 8 else if i = 2 * (a.toNat / 2) + 1 then v.extractLsb' 8 8
    else m.byteAt i := by
  have hlow := Memory.wf_setByte (v.extractLsb' 0 8) h (laneAddr_lt a false)
  rw [Memory.writeWord, byteAt_setByte hlow, byteAt_setByte h, laneAddr_low, laneAddr_high]
  by_cases hi : i = 2 * (a.toNat / 2)
  · rw [if_neg (by omega), if_pos hi, if_pos hi]
  · simp only [hi, if_false]

theorem byteAt_writeByte {m : Memory} (h : m.wf = true) (a v : Word) (i : Nat) :
    (m.writeByte a v).byteAt i = if i = a.toNat then v.extractLsb' 0 8 else m.byteAt i := by
  rw [Memory.writeByte, byteAt_setByte h, laneAddr_self]

theorem highByte_toNat (v : Word) : (v.extractLsb' 8 8).toNat = v.toNat / 256 := by
  have h := v.isLt
  simp [Nat.shiftRight_eq_div_pow]
  omega

/-- The memory after a store of MDR at MAR, a word or a byte, as `Reference.nextMem` writes it. -/
def storeAt (m : Memory) (wide : Bool) (a v : Word) : Memory := if wide then m.writeWord a v else m.writeByte a v

/-- A store leaves the value's two bytes in the word, or its low byte at the address, and every other byte alone. -/
theorem byteAt_storeAt_toNat {m : Memory} (h : m.wf = true) (wide : Bool) (a v : Word) (i : Nat) :
    ((storeAt m wide a v).byteAt i).toNat =
      if wide = true ∧ i = 2 * (a.toNat / 2) ∨ wide = false ∧ i = a.toNat then v.toNat % 256
      else if wide = true ∧ i = 2 * (a.toNat / 2) + 1 then v.toNat / 256
      else (m.byteAt i).toNat := by
  cases wide with
  | false => simp [storeAt, byteAt_writeByte h, apply_ite BitVec.toNat]
  | true => simp [storeAt, byteAt_writeWord h, apply_ite BitVec.toNat, ← highByte_toNat]

/-! ### Read after write -/

theorem high_append_low (v : Word) : v.extractLsb' 8 8 ++ v.extractLsb' 0 8 = v :=
  (extractLsb'_append_neighbour v rfl).trans BitVec.extractLsb'_eq_self

theorem readWord_writeWord {m : Memory} (h : m.wf = true) (a b v : Word) :
    (m.writeWord a v).readWord b = if b.toNat / 2 = a.toNat / 2 then v else m.readWord b := by
  simp only [Memory.readWord, laneAddr_low, laneAddr_high, byteAt_writeWord h]
  by_cases hab : b.toNat / 2 = a.toNat / 2
  · simp [hab, high_append_low]
  · rw [if_neg (by omega), if_neg (by omega), if_neg (by omega), if_neg (by omega), if_neg hab]

/-- Bit 0 of an address does not take part in the lanes of its word (20_memory R68). -/
theorem laneAddr_xor_one (a : Word) (high : Bool) : laneAddr (a ^^^ 1) high = laneAddr a high := by
  have h : (a ^^^ 1).extractLsb' 1 15 = a.extractLsb' 1 15 := by
    ext i hi
    simp
  rw [laneAddr, h, laneAddr]

/-! ### The image at reset (20_memory R76) -/

theorem ofImage_append (image : List (Word × Word)) (a v : Word) :
    Memory.ofImage (image ++ [(a, v)]) = (Memory.ofImage image).writeWord a v := by
  simp [Memory.ofImage, List.foldl_append]

/-- The words of an image as placed from a load address. -/
def placed (base : Word) (words : List Word) : List (Word × Word) :=
  words.mapIdx fun k v => (base + BitVec.ofNat 16 (2 * k), v)

theorem placed_append (base : Word) (words : List Word) (v : Word) :
    placed base (words ++ [v]) = placed base words ++ [(base + BitVec.ofNat 16 (2 * words.length), v)] := by
  simp [placed, List.mapIdx_append]

/-- Within the memory bound the k-th address does not wrap: its word is the k-th from the load address. -/
theorem wordIndex_of_placed {base : Word} {k : Nat} (h : base.toNat / 2 + k < 32768) :
    (base + BitVec.ofNat 16 (2 * k)).toNat / 2 = base.toNat / 2 + k := by
  rw [BitVec.toNat_add, BitVec.toNat_ofNat]
  omega

/-- What an image that fits leaves in memory: its words, and zero outside them. -/
theorem ofImage_placed (base : Word) (words : List Word) (h : base.toNat / 2 + words.length ≤ 32768) :
    (∀ (k : Nat) (hk : k < words.length),
      (Memory.ofImage (placed base words)).readWord (base + BitVec.ofNat 16 (2 * k)) = words[k]) ∧
    ∀ a : Nat, (a / 2 < base.toNat / 2 ∨ base.toNat / 2 + words.length ≤ a / 2) →
      (Memory.ofImage (placed base words)).byteAt a = 0 := by
  induction words using List.reverseRecOn with
  | nil => exact ⟨fun k hk => absurd hk (Nat.not_lt_zero k), fun a _ => rfl⟩
  | append_singleton words v ih =>
    simp only [List.length_append, List.length_singleton] at h ⊢
    obtain ⟨ihread, ihzero⟩ := ih (by omega)
    have hlast := wordIndex_of_placed (base := base) (k := words.length) (by omega)
    rw [placed_append, ofImage_append]
    refine ⟨fun k hk => ?_, fun a ha => ?_⟩
    · rw [readWord_writeWord (Memory.wf_ofImage _), hlast, wordIndex_of_placed (by omega)]
      by_cases hkl : k = words.length
      · subst hkl
        simp
      · rw [if_neg (by omega), ihread k (by omega), List.getElem_append_left]
    · rw [byteAt_writeWord (Memory.wf_ofImage _), hlast, if_neg (by omega), if_neg (by omega)]
      exact ihzero a (by omega)

/-! ### The memory of the next state -/

theorem fifthTick_iff (n : BitVec 3) : n.toNat + 1 = 5 ↔ n = 4 := by
  revert n; decide

theorem nextMem_of_no_store {s : State} (h : ¬(s.cw.mioEn = true ∧ s.cw.rW = true ∧ s.memCnt = 4)) : nextMem s = s.mem := by
  unfold nextMem
  rw [if_neg]
  simp only [Bool.and_eq_true, decide_eq_true_eq, fifthTick_iff]
  tauto

theorem nextMem_of_store {s : State} (hm : s.cw.mioEn = true) (hw : s.cw.rW = true) (hc : s.memCnt = 4) :
    nextMem s = storeAt s.mem s.cw.dataSize s.mar s.mdr := by
  simp [nextMem, storeAt, hm, hw, hc]

/-- A byte outside the word, or other than the byte, at MAR is the same in the next memory. -/
theorem byteAt_nextMem_of_outside {s : State} (h : s.mem.wf = true) {a : Nat}
    (ha : if s.cw.dataSize then a / 2 ≠ s.mar.toNat / 2 else a ≠ s.mar.toNat) : (nextMem s).byteAt a = s.mem.byteAt a := by
  by_cases hst : s.cw.mioEn = true ∧ s.cw.rW = true ∧ s.memCnt = 4
  · obtain ⟨hm, hw, hc⟩ := hst
    rw [nextMem_of_store hm hw hc]
    cases hd : s.cw.dataSize with
    | false =>
      rw [hd, if_neg Bool.false_ne_true] at ha
      exact (byteAt_writeByte h _ _ a).trans (if_neg ha)
    | true =>
      rw [hd, if_pos rfl] at ha
      refine (byteAt_writeWord h _ _ a).trans ?_
      rw [if_neg (by omega), if_neg (by omega)]
  · rw [nextMem_of_no_store hst]

end Sys2Proof.Machine

open Sys2Proof Sys2Proof.Machine

/-- Settles O48, from the bytes of a store and of a read. -/
theorem memoryReadsBackWhatWasWritten : Obligations.MemoryReadsBackWhatWasWritten := by
  intro m a b v h
  refine ⟨readWord_writeWord h a b v, ?_, ?_, ?_, ?_⟩
  · simp [byteAt_writeByte h, apply_ite BitVec.toNat, BitVec.toNat_inj]
  · rw [Memory.readByte, laneAddr_self, byteAt_writeByte h, if_pos rfl]
  · rw [Memory.readWord, laneAddr_xor_one, laneAddr_xor_one, Memory.readWord]
  · rw [Memory.writeWord, laneAddr_xor_one, laneAddr_xor_one, Memory.writeWord]

/-- Settles O49, by induction on the image from its last word. -/
theorem imageWordsStandInMemoryAtReset : Obligations.ImageWordsStandInMemoryAtReset := by
  intro base words
  have hbase : (base.extractLsb' 1 15).toNat = base.toNat / 2 := by
    have h := base.isLt
    simp [Nat.shiftRight_eq_div_pow]
    omega
  refine ⟨fun h => if_pos (.inr (by omega)), fun image h => ?_⟩
  unfold imagePlacements at h
  split at h
  · cases h
  next hfit =>
    cases h
    exact ofImage_placed base words (by omega)

/-- Settles O32: only the latch update writes memory, and `nextMem` is the old memory or one store. -/
theorem memoryChangesOnlyByAFifthTickWrite : Obligations.MemoryChangesOnlyByAFifthTickWrite := by
  intro s t hwf h
  rcases step_next_cases h with ⟨-, hp, rfl⟩ | ⟨-, e, -, rfl⟩ | ⟨⟨hfault, -⟩, -, rfl⟩
  · exact ⟨fun _ => rfl, fun _ => rfl, fun _ _ => rfl, fun hr => absurd hp hr.2⟩
  · exact ⟨fun _ => rfl, fun _ => rfl, fun _ _ => rfl, fun _ ht => nomatch ht⟩
  · refine ⟨nextMem_of_no_store, ?_, ?_, ?_⟩
    · exact fun ht => absurd hfault ht
    · exact fun a ha => byteAt_nextMem_of_outside hwf ha
    · intro _ _ hm hw hc
      rw [show (Reference.latched s (Reference.busOf s)).mem = _ from nextMem_of_store hm hw hc]
      refine ⟨fun hd => ?_, fun hd => ?_⟩
      · rw [hd]
        exact (readWord_writeWord hwf _ _ _).trans (if_pos rfl)
      · rw [byteAt_storeAt_toNat hwf, if_pos (.inr ⟨hd, rfl⟩)]
end

section
/-! PROOFS. The micro-operations one by one: the row a word selects in each slot, and what the row puts into the transient (spec
41_memory_timing, 42_datapath_units, 43_bus_arbiter, 44_latch_update). -/

namespace Sys2Proof.Machine

open Sys2Proof Reference

/-! ### The slots of a selection -/

/-- A selection is the bus row of the word and, in every other slot, the row of the slot's own fields. -/
theorem select_eq {c : ControlWord} {ir : Word} {m : Microinstruction} (h : select c ir = .ok m) :
    ∃ bus, busOp c = some bus ∧ m =
      { seq := seqOp c, mem := memOp c, opA := opAOp c, opB := loadOp c.gateAlu (opBOp ir), alu := aluOp c,
        shf := loadOp c.gateShf (shfOp ir), off := offOp c, offShift := offShiftOp c, base := baseOp c,
        marSrc := marSrcOp c, bus := bus, pc := pcOp c, ldMar := loadOp c.ldMar .ldMar, ldIr := loadOp c.ldIr .ldIr,
        ldMdr := loadOp c.ldMdr (if c.mioEn then .ldMdrMem else .ldMdrBus), ldCc := loadOp c.ldCc .ldCc,
        ldBen := loadOp c.ldBen .ldBen, ldReg := loadOp c.ldReg (if c.drMux then .ldRegR7 else .ldRegIr) } := by
  unfold select at h
  split at h
  · cases h
  next bus hbus =>
    cases h
    exact ⟨bus, hbus, rfl⟩

theorem shfOp_eq_reserved_iff (ir : Word) : shfOp ir = .shfReserved ↔ irShiftMode ir = 2 := by
  unfold shfOp
  rcases code_cases (irShiftMode ir) with h | h | h | h <;> simp [h]

theorem pcOp_eq_reserved_iff (c : ControlWord) : pcOp c = .pcReserved ↔ c.ldPc = true ∧ c.pcMux = 3 := by
  unfold pcOp
  cases c.ldPc with
  | false => simp
  | true => rcases code_cases c.pcMux with h | h | h | h <;> simp [h]

/-! ### The memory timing unit (41_memory_timing R151 to R156) -/

theorem memTick_of_fifth {s : State} (h : s.memCnt = 4) (f : Inflight → Inflight) :
    memTick s f = .next (s.inFlight fun c => f { c with memCnt := some 0, ready := some false }) := by
  have ht : s.tick = 5 := by simp [State.tick, h]
  simp [memTick, ht]

theorem memTick_of_lt {s : State} (h : s.memCnt.toNat < 4) (f : Inflight → Inflight) :
    ∃ n : BitVec 3, n.toNat = s.memCnt.toNat + 1 ∧ memTick s f =
      .next (s.inFlight fun c => { c with memCnt := some n, ready := some (decide (n.toNat = 4)) }) := by
  have hn : (BitVec.ofNat 3 s.tick).toNat = s.memCnt.toNat + 1 := by
    rw [BitVec.toNat_ofNat, State.tick]
    omega
  have ht : s.tick ≠ 5 := by
    rw [State.tick]
    omega
  have hready : decide (s.tick = 4) = decide ((BitVec.ofNat 3 s.tick).toNat = 4) := by rw [hn, State.tick]
  exact ⟨_, hn, by simp only [memTick, if_neg ht, hready]⟩

section
variable (s : State)

theorem exec_memRdB : exec .memRdB s = memTick s fun c => { c with readResult := some (s.mem.readByte s.mar) } := rfl
theorem exec_memRdW : exec .memRdW s = memTick s fun c => { c with readResult := some (s.mem.readWord s.mar) } := rfl
theorem exec_memWrB : exec .memWrB s = memTick s fun c => { c with store := some ⟨s.mar, false, s.mdr⟩ } := rfl
theorem exec_memWrW : exec .memWrW s = memTick s fun c => { c with store := some ⟨s.mar, true, s.mdr⟩ } := rfl

end

theorem applyStore_some (m : Memory) (wide : Bool) (a v : Word) :
    applyStore m (some ⟨a, wide, v⟩) = storeAt m wide a v := rfl

/-! ### Immediates, offsets and the vector (30_encoding R94) -/

theorem signExtend_toInt {n : Nat} (v : BitVec n) (h : n ≤ 16) : (v.signExtend 16).toInt = v.toInt :=
  BitVec.toInt_signExtend_of_le h

theorem vect8Value_toNat (ir : Word) : (vect8Value ir).toNat = 2 * (ir.toNat % 256) := by
  simp [vect8Value, irLowByte, Nat.shiftLeft_eq]
  omega

theorem shiftedOffset_toNat (v : Word) : (shiftedOffset v).toNat = (2 * v.toNat) % 65536 := by
  simp [shiftedOffset, Nat.shiftLeft_eq, Nat.mul_comm]

theorem adder_of_operands {c : Inflight} {a b : Word} (ha : c.op1 = some a) (hb : c.op2 = some b) :
    c.adder = some (a + b) := by
  simp [Inflight.adder, ha, hb]

/-- A row that copies one unit's output, where that output is known. -/
theorem inFlight_congr {s : State} {f g : Inflight → Inflight} (h : f s.cycle = g s.cycle) : s.inFlight f = s.inFlight g := by
  simp only [State.inFlight, h]

/-! ### Errors and the bus -/

theorem drive_of_output {s : State} {out : Inflight → Option Word} {v : Word} (h : out s.cycle = some v) :
    drive out s = .next (s.inFlight fun c => { c with bus := some v }) :=
  congrArg _ (inFlight_congr (by rw [h]))

theorem raise_eq {s : State} (h : s.fault = none) (e : Fault) : s.raise e = { s with fault := some e, cycle := .idle } := by
  simp [State.raise, h]

theorem withBus_undriven_eq {s : State} (hf : s.fault = none) (hb : s.cycle.bus = none) (f : Word → Inflight → Inflight) :
    withBus s f = .next { s with fault := some .busUndriven, cycle := .idle } := by
  rw [withBus_undriven hb, raise_eq hf]

/-- The consumers of the bus (43_bus_arbiter R214). -/
def busConsumers : List Instr := [.pcBus, .ldMar, .ldIr, .ldMdrBus, .ldCc, .ldRegIr, .ldRegR7]

/-- A row that is no consumer of the bus never records `BusUndriven`. -/
theorem exec_fault_of_not_consumer {i : Instr} {s t : State} (hi : i ∉ busConsumers) (hs : s.fault = none)
    (h : exec i s = .next t) : t.fault ≠ some .busUndriven := by
  cases i
  case pcBus | ldMar | ldIr | ldMdrBus | ldCc | ldRegIr | ldRegR7 => exact absurd (by decide) hi
  case gateShf =>
    simp only [exec, execGateShf] at h
    split at h <;> cases h <;> simp [hs]
  all_goals
    cases h
    simp [hs]

/-! ### The branch-enable flag (44_latch_update R227) -/

theorem benOf_of_oneFlag {s : State} (h : s.oneFlag = true) :
    benOf s.ir s.n s.z s.p = s.ir.getLsbD (if s.n then 11 else if s.z then 10 else 9) := by
  unfold State.oneFlag at h
  unfold benOf
  cases hn : s.n <;> cases hz : s.z <;> cases hp : s.p <;> simp [hn, hz, hp] at h ⊢

end Sys2Proof.Machine

open Sys2Proof Sys2Proof.Machine

/-- Settles O3: each access row is a tick, which below the 5th only counts. -/
theorem accessRowsOnlyCountOnTicksOneToFour : Obligations.AccessRowsOnlyCountOnTicksOneToFour := by
  intro s i hi h
  simp only [List.mem_cons, List.not_mem_nil, or_false] at hi
  rcases hi with rfl | rfl | rfl | rfl
  · exact exec_memRdB s ▸ memTick_of_lt h _
  · exact exec_memRdW s ▸ memTick_of_lt h _
  · exact exec_memWrB s ▸ memTick_of_lt h _
  · exact exec_memWrW s ▸ memTick_of_lt h _

/-- Settles O4: on the 5th tick the row reads, and the two reads are the bytes at MAR. -/
theorem readRowsReadOnTheFifthTick : Obligations.ReadRowsReadOnTheFifthTick := fun s h =>
  ⟨⟨_, (exec_memRdW s).trans (memTick_of_fifth h _), readWord_toNat s.mem s.mar⟩,
    ⟨_, (exec_memRdB s).trans (memTick_of_fifth h _), readByte_toInt s.mem s.mar⟩⟩

/-- Settles O5: on the 5th tick the row leaves a store pending, whose bytes are those of `storeAt`. -/
theorem writeRowsStoreOnTheFifthTick : Obligations.WriteRowsStoreOnTheFifthTick := by
  intro s h hwf
  refine ⟨⟨_, (exec_memWrW s).trans (memTick_of_fifth h _), fun a => ?_⟩,
    ⟨_, (exec_memWrB s).trans (memTick_of_fifth h _), fun a => ?_⟩⟩
  · simpa [applyStore_some] using byteAt_storeAt_toNat hwf true s.mar s.mdr a
  · simpa [applyStore_some] using byteAt_storeAt_toNat hwf false s.mar s.mdr a

/-- Settles O6: the two slots are those of `opAOp` and `opBOp`; the immediate keeps its signed value. -/
theorem operandRowsReadTheirRegisterOrImmediate : Obligations.OperandRowsReadTheirRegisterOrImmediate := by
  refine ⟨fun c ir m h => ?_, fun s r v => ⟨rfl, rfl, rfl, _, rfl, signExtend_toInt v (by decide)⟩⟩
  obtain ⟨bus, -, rfl⟩ := select_eq h
  exact ⟨rfl, rfl⟩

/-- Settles O9: the reserved codes select their rows only under GATE_SHF and LD_PC, and the rows record their error. -/
theorem reservedRowsRecordTheirError : Obligations.ReservedRowsRecordTheirError := by
  refine ⟨fun c ir m h => ?_, fun s hs => ⟨?_, ?_, fun hm => ?_⟩⟩
  · obtain ⟨bus, -, rfl⟩ := select_eq h
    exact ⟨loadOp_eq_some.trans (and_congr_right' (shfOp_eq_reserved_iff ir)), pcOp_eq_reserved_iff c⟩
  · exact congrArg _ (raise_eq hs _)
  · exact congrArg _ (raise_eq hs _)
  · exact (if_pos hm).trans (congrArg _ (raise_eq hs _))

/-- Settles O10: the slot is that of `offOp`, and sign extension keeps the signed value of a field. -/
theorem offsetRowsSignExtendTheirField : Obligations.OffsetRowsSignExtendTheirField := by
  refine ⟨fun c ir m h => ?_, fun s => ⟨rfl, ?_, ?_, ?_⟩⟩
  · obtain ⟨bus, -, rfl⟩ := select_eq h
    rfl
  · exact ⟨_, rfl, signExtend_toInt _ (by decide)⟩
  · exact ⟨_, rfl, signExtend_toInt _ (by decide)⟩
  · exact ⟨_, rfl, signExtend_toInt _ (by decide)⟩

/-- Settles O11: the slots are those of `offShiftOp` and `baseOp`; a shift by one doubles modulo 2^16. -/
theorem adderRowsGiveItsTwoOperands : Obligations.AdderRowsGiveItsTwoOperands := by
  refine ⟨fun c ir m h => ?_, fun s v hv => ⟨?_, _, ?_, shiftedOffset_toNat v⟩, fun s => ⟨rfl, rfl⟩⟩
  · obtain ⟨bus, -, rfl⟩ := select_eq h
    exact ⟨rfl, rfl⟩
  · exact congrArg _ (inFlight_congr (by rw [hv]))
  · exact congrArg _ (inFlight_congr (by rw [hv, Option.map_some]))

/-- Settles O12: the slot is that of `marSrcOp`; the sum is that of words, the vector twice the low byte. -/
theorem marSourceRowsPutOutVectorOrSum : Obligations.MarSourceRowsPutOutVectorOrSum := by
  refine ⟨fun c ir m h => ?_, fun s => ⟨_, rfl, vect8Value_toNat s.ir⟩,
    fun s a b ha hb => ⟨a + b, ?_, BitVec.toNat_add a b⟩⟩
  · obtain ⟨bus, -, rfl⟩ := select_eq h
    rfl
  · exact congrArg _ (inFlight_congr (by rw [adder_of_operands ha hb]))

/-- Settles O13: the slot is that of `busOp`; a gate copies its unit's output to the bus. -/
theorem gateRowsDriveTheBus : Obligations.GateRowsDriveTheBus := by
  refine ⟨fun c ir m h => ?_, fun s v => ⟨rfl, rfl, rfl, fun hv => ?_, fun hv => ?_, fun hv hm => ?_⟩⟩
  · obtain ⟨bus, hbus, rfl⟩ := select_eq h
    exact busOp_eq_some hbus
  · exact drive_of_output hv
  · exact drive_of_output hv
  · exact (if_neg hm).trans (drive_of_output hv)

/-- Settles O14: the slot is that of `pcOp`; the increment and the sum are those of words. -/
theorem pcRowsGiveTheNextPc : Obligations.PcRowsGiveTheNextPc := by
  refine ⟨fun c ir m h => ?_, fun s => ⟨rfl, _, rfl, BitVec.toNat_add s.pc 2⟩, fun s v hv => withBus_driven hv _,
    fun s a b ha hb => ⟨a + b, ?_, BitVec.toNat_add a b⟩⟩
  · obtain ⟨bus, -, rfl⟩ := select_eq h
    refine ⟨fun hl => ?_, fun hl hm => ?_, fun hl hm => ?_, fun hl hm => ?_⟩ <;> simp [pcOp, *]
  · exact congrArg _ (inFlight_congr (by rw [adder_of_operands ha hb]))

/-- Settles O15: each load is `withBus`, which takes a driven bus and records the error on an undriven one. -/
theorem loadRowsTakeTheBusValue : Obligations.LoadRowsTakeTheBusValue := by
  refine ⟨fun c ir m h => ?_, fun s v hv => ?_, fun s i hi hf hb => ?_⟩
  · obtain ⟨bus, -, rfl⟩ := select_eq h
    exact ⟨rfl, rfl, fun hm => by simp [loadOp, hm], rfl⟩
  · exact ⟨withBus_driven hv _, withBus_driven hv _, withBus_driven hv _, withBus_driven hv _, withBus_driven hv _⟩
  · simp only [List.mem_cons, List.not_mem_nil, or_false] at hi
    rcases hi with rfl | rfl | rfl | rfl | rfl <;> exact withBus_undriven_eq hf hb _

/-- Settles O16: a consumer is `withBus`; any other row leaves FAULT as it is or records another error. -/
theorem consumersOfAnUndrivenBusRecordTheError : Obligations.ConsumersOfAnUndrivenBusRecordTheError := by
  intro s i hf hb
  constructor
  · intro hi
    simp only [List.mem_cons, List.not_mem_nil, or_false] at hi
    rcases hi with rfl | rfl | rfl | rfl | rfl | rfl | rfl <;> exact withBus_undriven_eq hf hb _
  · intro h
    by_contra hi
    exact exec_fault_of_not_consumer hi hf h rfl

/-- Settles O17: the row copies the read result, present or not. -/
theorem mdrLoadFromMemoryTakesTheReadResult : Obligations.MdrLoadFromMemoryTakesTheReadResult := by
  refine ⟨fun c ir m h hm => ?_, fun s => ⟨fun v hv => ?_, fun hv => ?_⟩⟩
  · obtain ⟨bus, -, rfl⟩ := select_eq h
    simp [loadOp, hm]
  · exact congrArg _ (inFlight_congr (by rw [hv]))
  · exact congrArg _ (inFlight_congr (by rw [hv]))

/-- Settles O18: the flags of the bus value are those of its sign. -/
theorem flagLoadSetsExactlyTheFlagOfTheBusValue : Obligations.FlagLoadSetsExactlyTheFlagOfTheBusValue := by
  refine ⟨fun c ir m h => ?_, fun s v hv => ?_, fun s hf hb => withBus_undriven_eq hf hb _⟩
  · obtain ⟨bus, -, rfl⟩ := select_eq h
    rfl
  · rw [← flagsOf_eq]
    exact withBus_driven hv _

/-- Settles O19: with one flag set two of the three products of `benOf` are false. -/
theorem branchEnableLoadTestsTheSetFlag : Obligations.BranchEnableLoadTestsTheSetFlag := by
  refine ⟨fun c ir m h => ?_, fun s h => ?_⟩
  · obtain ⟨bus, -, rfl⟩ := select_eq h
    rfl
  · rw [← benOf_of_oneFlag h]
    rfl
end

section
/-! PROOFS. Committing cycles: what the bus carries and who receives it, which tests see the old state, what a field that is not
routed cannot change, and two microinstructions in full (spec 43_bus_arbiter, 70_reset_and_hazards, 30_encoding R99). -/

namespace Sys2Proof.Machine

open Sys2Proof Reference

/-! ### The bus of a committing cycle -/

/-- Where the word raises no error a consumer meets a driven bus. -/
theorem busOf_driven {s : State} (he : errorOf s.cw s.ir = none) (hn : needsBus s.cw = true) : ∃ v, busOf s = some v := by
  obtain ⟨-, hshf, -, hbus⟩ := (errorOf_eq_none_iff _ _).mp he
  have h := busOf_isNone hshf
  rw [decide_eq_false fun hg => hbus ⟨hg, hn⟩] at h
  exact Option.isSome_iff_exists.mp (by simpa using h)

/-- With at most one gate set, the bus carries that gate's unit (43_bus_arbiter R211, R213). -/
theorem busOf_of_gate {s : State} (h : gateCount s.cw ≤ 1) :
    (s.cw.gatePc = true → busOf s = some s.pc) ∧ (s.cw.gateMdr = true → busOf s = some s.mdr) ∧
    (s.cw.gateAlu = true → busOf s = some (aluOut s)) ∧ (s.cw.gateMarmux = true → busOf s = some (marmuxOut s)) ∧
    (s.cw.gateShf = true → busOf s = shfOut s) ∧ (gateCount s.cw = 0 → busOf s = none) := by
  unfold gateCount at h ⊢
  unfold busOf
  cases hp : s.cw.gatePc <;> cases hm : s.cw.gateMdr <;> cases ha : s.cw.gateAlu <;> cases hx : s.cw.gateMarmux <;>
    cases hs : s.cw.gateShf <;> simp [hp, hm, ha, hx, hs] at h ⊢

/-! ### The next index reads the old state (40_sequencer R131) -/

theorem nextIndex_dispatch {s : State} (h : s.cw.ird = true) : (nextIndex s).toNat = s.ir.toNat / 4096 := by
  simp only [nextIndex, h, if_true]
  exact indexDispatch_toNat s.ir

theorem nextIndex_memwait {s : State} (h : s.cw.ird = false) (hc : s.cw.cond = 1) :
    nextIndex s = replaceBit s.cw.j 1 s.ready := by
  simp [nextIndex, h, hc, replaceBit]
  rfl

theorem nextIndex_branch {s : State} (h : s.cw.ird = false) (hc : s.cw.cond = 2) :
    nextIndex s = replaceBit s.cw.j 2 s.ben := by
  simp [nextIndex, h, hc, replaceBit]
  rfl

theorem nextIndex_addrmode {s : State} (h : s.cw.ird = false) (hc : s.cw.cond = 3) :
    nextIndex s = replaceBit s.cw.j 0 (s.ir.getLsbD 11) := by
  simp [nextIndex, h, hc, replaceBit]
  rfl

/-! ### A word that no unit reads differently -/

theorem readResult_of_not_fifth {s : State} (h : ¬(s.cw.mioEn = true ∧ s.memCnt = 4)) : readResult s = none := by
  unfold readResult
  rw [if_neg]
  simp only [Bool.and_eq_true, decide_eq_true_eq, fifthTick_iff]
  exact fun hr => h hr.1

theorem nextMem_of_not_fifth {s : State} (h : ¬(s.cw.mioEn = true ∧ s.memCnt = 4)) : nextMem s = s.mem :=
  nextMem_of_no_store fun ⟨hm, _, hc⟩ => h ⟨hm, hc⟩

/-- Two states with the same latch update take the same step, where neither word raises an error. -/
theorem step_congr {s s' : State} (hr : s.Running) (hr' : s'.Running) (he : errorOf s.cw s.ir = none)
    (he' : errorOf s'.cw s'.ir = errorOf s.cw s.ir) (h : latched s' (busOf s') = latched s (busOf s)) : step s' = step s := by
  rw [step_of_clean hr' (he'.trans he), step_of_clean hr he, h]

/-- PC does not depend on the adder where the mux does not take it. -/
theorem latched_pc_of_not_adder {s s' : State} {bus : Option Word} (h : ¬(s.cw.ldPc = true ∧ s.cw.pcMux = 2))
    (hl : s'.cw.ldPc = s.cw.ldPc) (hm : s'.cw.pcMux = s.cw.pcMux) (hpc : s'.pc = s.pc) :
    (latched s' bus).pc = (latched s bus).pc := by
  simp only [latched, hl, hm, hpc]
  cases hld : s.cw.ldPc with
  | false => rfl
  | true =>
    rcases code_cases s.cw.pcMux with hx | hx | hx | hx
    · simp [hx]
    · simp [hx]
    · exact absurd ⟨hld, hx⟩ h
    · simp [hx]

theorem latched_congr_pc {s t : State} {pc : Word} (h : t = { s with pc := pc }) (hpc : pc = s.pc) : t = s := by
  rw [h, hpc]

/-! ### Words under a clean control store (70_reset_and_hazards R293) -/

theorem errorOf_of_cleanWord {c : ControlWord} {ir : Word} {e : Fault} (hc : cleanWord c = true) (he : errorOf c ir = some e) :
    e = .shifterReservedMode ∧ c.gateShf = true ∧ irShiftMode ir = 2 := by
  simp only [cleanWord, Bool.and_eq_true, Bool.or_eq_true, decide_eq_true_eq, Bool.not_eq_true', Bool.and_eq_false_iff] at hc
  obtain ⟨⟨hg, hpc⟩, hbus⟩ := hc
  by_cases hs : c.gateShf = true ∧ irShiftMode ir = 2
  · rw [errorOf_shifterReservedMode hg hs.1 hs.2] at he
    exact ⟨(Option.some.inj he).symm, hs⟩
  · have hnone : errorOf c ir = none := by
      refine (errorOf_eq_none_iff c ir).mpr ⟨hg, hs, ?_, ?_⟩
      · rintro ⟨hl, hm⟩
        simp [hl, hm] at hpc
      · rintro ⟨h0, hn⟩
        rcases hbus with hb | hb
        · simp [hn] at hb
        · omega
    rw [hnone] at he
    cases he

end Sys2Proof.Machine

open Sys2Proof Sys2Proof.Machine Sys2Proof.Machine.Reference

/-- Settles O40: with MIO_EN = 0 the memory unit idles, and an MDR load is a bus load, of a driven bus. -/
theorem droppedAccessHasNoEffect : Obligations.DroppedAccessHasNoEffect := by
  intro s t hr hm h ht
  obtain ⟨he, rfl⟩ := step_commits hr h ht
  refine ⟨by simp [latched, nextCount, hm], by simp [latched, nextReady, hm], nextMem_of_no_store (by simp [hm]), ?_⟩
  cases hl : s.cw.ldMdr with
  | false => simp [latched, hl]
  | true =>
    obtain ⟨v, hv⟩ := busOf_driven he (by simp [needsBus, hl, hm])
    simp [latched, hl, hm, hv]

/-- Settles O41: each field is read by one unit, whose output the word does not use. -/
theorem unreadFieldsDoNotChangeTheCycle : Obligations.UnreadFieldsDoNotChangeTheCycle := by
  intro s hr he
  refine ⟨fun x y h => ?_, fun x h => ?_, fun x h => ?_, fun x y h => ?_, fun x z y hpc hmar => ?_, fun x h => ?_,
    fun x y h => ?_⟩
  · refine step_congr hr hr he rfl ?_
    have hns : nextIndex { s with cw := { s.cw with cond := x, j := y } } = nextIndex s := by simp [nextIndex, h]
    simp only [latched, hns]
    rfl
  · refine step_congr hr hr he (by simp [errorOf, needsBus, gateCount, h]) ?_
    simp only [latched, h]
    rfl
  · refine step_congr hr hr he rfl ?_
    simp only [latched, h]
    rfl
  · refine step_congr hr hr he rfl ?_
    have hbus : busOf { s with cw := { s.cw with sr1Mux := x, aluK := y } } = busOf s := by
      simp only [busOf, h]
      rfl
    rw [hbus]
    rfl
  · refine step_congr hr hr he rfl ?_
    have hbus : busOf { s with cw := { s.cw with addr1Mux := x, addr2Mux := y, lshf1 := z } } = busOf s := by
      cases hg : s.cw.gateMarmux with
      | false =>
        simp only [busOf, hg]
        rfl
      | true =>
        have hm : s.cw.marMux = false := by simpa [hg] using hmar
        simp only [busOf, marmuxOut, hm]
        rfl
    rw [hbus]
    exact latched_congr_pc rfl (latched_pc_of_not_adder hpc rfl rfl rfl)
  · refine step_congr hr hr he rfl ?_
    have hbus : busOf { s with cw := { s.cw with marMux := x } } = busOf s := by
      simp only [busOf, h]
      rfl
    rw [hbus]
    rfl
  · refine step_congr hr hr he rfl ?_
    have hread : readResult { s with cw := { s.cw with rW := x, dataSize := y } } = readResult s := by
      rw [readResult_of_not_fifth h, readResult_of_not_fifth (s := { s with cw := { s.cw with rW := x, dataSize := y } }) h]
    have hmem : nextMem { s with cw := { s.cw with rW := x, dataSize := y } } = nextMem s := by
      rw [nextMem_of_not_fifth h, nextMem_of_not_fifth (s := { s with cw := { s.cw with rW := x, dataSize := y } }) h]
    simp only [latched, hread, hmem]
    rfl

/-- Settles O42: a consumer has a driven bus, and the latch update gives each of them its value. -/
theorem everyConsumerReceivesTheSameBusValue : Obligations.EveryConsumerReceivesTheSameBusValue := by
  intro s t hr h ht
  obtain ⟨he, rfl⟩ := step_commits hr h ht
  refine ⟨fun hl => ?_, fun hl => ?_, fun hl hm => ?_, fun hl => ?_, fun hl hm => ?_, fun hl => ?_⟩
  · obtain ⟨v, hv⟩ := busOf_driven he (by simp [needsBus, hl])
    simp [latched, hl, hv]
  · obtain ⟨v, hv⟩ := busOf_driven he (by simp [needsBus, hl])
    simp [latched, hl, hv]
  · obtain ⟨v, hv⟩ := busOf_driven he (by simp [needsBus, hl, hm])
    simp [latched, hl, hm, hv]
  · obtain ⟨v, hv⟩ := busOf_driven he (by simp [needsBus, hl])
    rw [latched_reg, if_pos ⟨hl, rfl⟩]
    simp [latched, hv]
  · obtain ⟨v, hv⟩ := busOf_driven he (by simp [needsBus, hl, hm])
    simp [latched, hl, hm, hv]
  · obtain ⟨v, hv⟩ := busOf_driven he (by simp [needsBus, hl])
    obtain ⟨hn, hz, hp⟩ := latched_flags hl (busOf s)
    rw [hv] at hn hz hp
    exact ⟨v, hv, hv ▸ hn, hv ▸ hz, hv ▸ hp⟩

/-- Settles O43: at most one gate is set, and the reserved mode is not gated. -/
theorem busCarriesTheValueOfTheGatedUnit : Obligations.BusCarriesTheValueOfTheGatedUnit := by
  intro s t hr h ht
  obtain ⟨he, rfl⟩ := step_commits hr h ht
  obtain ⟨hg, hshf, -, -⟩ := (errorOf_eq_none_iff _ _).mp he
  obtain ⟨hpc, hmdr, halu, hmar, hs, hnone⟩ := busOf_of_gate hg
  refine ⟨hpc, hmdr, halu, hmar, fun hgate => ?_, hnone⟩
  obtain ⟨v, hv⟩ := Option.ne_none_iff_exists'.mp (mt (shfOut_eq_none_iff s).mp fun hm => hshf ⟨hgate, hm⟩)
  exact ⟨v, hv, (hs hgate).trans hv⟩

/-- Settles O44: CW is a row of the store, hence a clean word, which leaves `errorOf` one error. -/
theorem cleanControlStoreLeavesOnlyTheShifterError : Obligations.CleanControlStoreLeavesOnlyTheShifterError := by
  intro s t hs hw hclean h
  have hword : cleanWord s.cw = true := by
    rw [State.wordLatched, beq_iff_eq] at hw
    exact hw ▸ hclean s.stateIdx
  rcases step_next_cases h with ⟨-, -, rfl⟩ | ⟨-, e, he, rfl⟩ | ⟨-, -, rfl⟩
  · exact .inl hs
  · obtain ⟨rfl, hg, hm⟩ := errorOf_of_cleanWord hword he
    exact .inr ⟨rfl, hg, hm⟩
  · exact .inl hs

/-- Settles O46: the next index and BEN are functions of the old state. -/
theorem loadsOfACycleAreNotSeenByItsTests : Obligations.LoadsOfACycleAreNotSeenByItsTests := by
  intro s t hr h ht
  obtain ⟨he, rfl⟩ := step_commits hr h ht
  have hidx : (latched s (busOf s)).stateIdx = nextIndex s := rfl
  rw [hidx]
  refine ⟨nextIndex_dispatch, fun hi hc => ?_, fun hi hc => ?_, fun hi hc => ?_, fun hb hf => ?_⟩
  · rw [nextIndex_branch hi hc, getLsbD_replaceBit_self _ _ (by decide)]
  · rw [nextIndex_memwait hi hc, getLsbD_replaceBit_self _ _ (by decide)]
  · rw [nextIndex_addrmode hi hc, getLsbD_replaceBit_self _ _ (by decide)]
  · rw [← benOf_of_oneFlag hf]
    simp [latched, hb, benOf]

/-- Settles O45: the word raises no error, and its latch update is read off field by field. -/
theorem addMicroinstructionWritesSumAndFlags : Obligations.AddMicroinstructionWritesSumAndFlags := by
  intro s j hr hcw
  have he : errorOf s.cw s.ir = none := by simp [errorOf, hcw, ControlWord.zero, gateCount]
  have hbus : busOf s = some (aluOut s) := by simp [busOf, hcw, ControlWord.zero]
  have halu : aluOut s = s.reg (irBase s.ir) + operandB s := by simp [aluOut, operandB, hcw, ControlWord.zero]
  have hidx : nextIndex s = j := by simp [nextIndex, hcw, ControlWord.zero]
  have hdest : destination s = irDr s.ir := by simp [destination, hcw, ControlWord.zero]
  have hstep := step_of_clean hr he
  rw [hbus] at hstep
  have hreg : ∀ r, (latched s (some (aluOut s))).reg r = if r = irDr s.ir then aluOut s else s.reg r := by
    simp [latched_reg, hdest, hcw]
  obtain ⟨hn, hz, hp⟩ := latched_flags (s := s) (by simp [hcw]) (some (aluOut s))
  refine ⟨_, operandB s, aluOut s, hstep, fun hi => ?_, fun hi => ?_, ?_, (hreg _).trans (if_pos rfl),
    fun r hne => (hreg r).trans (if_neg hne), hn, hz, hp, ?_⟩
  · simp only [operandB, irImmSelect, hi]
    rfl
  · simp only [operandB, irImmSelect, hi, if_true]
    exact signExtend_toInt _ (by decide)
  · rw [halu]
    exact BitVec.toNat_add _ _
  · simp [latched, hidx, hcw, ControlWord.zero, nextCount, nextReady, nextMem, hr.1]

/-- Settles O47: the word raises no error, and its latch update is read off field by field. -/
theorem fetchWordMovesPcToMarAndIncrements : Obligations.FetchWordMovesPcToMarAndIncrements := by
  intro s j hr hcw
  have he : errorOf s.cw s.ir = none := by simp [errorOf, hcw, ControlWord.zero, gateCount]
  have hbus : busOf s = some s.pc := by simp [busOf, hcw]
  have hidx : nextIndex s = j := by simp [nextIndex, hcw, ControlWord.zero]
  have hstep := step_of_clean hr he
  rw [hbus] at hstep
  have hpc : (latched s (some s.pc)).pc.toNat = (s.pc.toNat + 2) % 65536 := by
    simp [latched, hcw, ControlWord.zero]
  refine ⟨_, hstep, by simp [latched, hcw], hpc, rfl, hidx,
    congrArg (controlStoreAt s.params) hidx, ?_, ?_, ?_, ?_, ?_, ?_, ?_, ?_, ?_, ?_, rfl, hr.1, rfl,
    fun hhalt => status_of_halted hr.1 (BitVec.eq_of_toNat_eq (hpc.trans hhalt.symm))⟩ <;>
  simp [latched, hcw, ControlWord.zero, nextCount, nextReady, nextMem, State.reg]
end

section
/-! PROOFS. Runs: an access held by its wait loop over its five cycles (spec 41_memory_timing section 3), and the host's run
requests (45_cycle R253, R254). -/

namespace Sys2Proof.Machine

open Sys2Proof Reference

/-! ### Runs, one step at a time -/

/-- A run goes on from where it stands. -/
theorem run_snoc {M : Host.Core} {s t u : M.State} {k : Nat} (h : M.run k s = .next t) (hu : M.step t = .next u) :
    M.run (k + 1) s = .next u := by
  induction k generalizing s with
  | zero =>
    cases h
    exact run_succ hu 0
  | succ k ih =>
    rw [Host.Core.run] at h
    split at h
    next s' hs =>
      rw [run_succ hs]
      exact ih h
    · cases h
    · cases h

/-! ### The memory unit by tick (41_memory_timing R151 to R156) -/

theorem nextCount_of_lt {s : State} (hm : s.cw.mioEn = true) (h : s.memCnt.toNat < 4) :
    nextCount s = BitVec.ofNat 3 (s.memCnt.toNat + 1) := by
  simp only [nextCount, hm, if_true]
  rw [if_neg (by omega)]

theorem nextReady_of_mioEn {s : State} (hm : s.cw.mioEn = true) : nextReady s = decide (s.memCnt.toNat + 1 = 4) := by
  simp [nextReady, hm]

theorem nextCount_of_fifth {s : State} (hc : s.memCnt = 4) : nextCount s = 0 := by
  simp [nextCount, hc]

theorem nextReady_of_fifth {s : State} (hc : s.memCnt = 4) : nextReady s = false := by
  simp [nextReady, hc]

/-- The word or the sign-extended byte at MAR. -/
def readAt (s : State) (wide : Bool) : Word := if wide then s.mem.readWord s.mar else s.mem.readByte s.mar

theorem readResult_of_read {s : State} (hm : s.cw.mioEn = true) (hr : s.cw.rW = false) (hc : s.memCnt = 4) :
    readResult s = some (readAt s s.cw.dataSize) := by
  simp [readResult, hm, hr, hc, readAt]

theorem readResult_of_write {s : State} (hw : s.cw.rW = true) : readResult s = none := by
  simp [readResult, hw]

theorem not_fifth_of_lt {s : State} (h : s.memCnt.toNat < 4) : ¬(s.cw.mioEn = true ∧ s.memCnt = 4) := by
  rintro ⟨-, hc⟩
  simp [hc] at h

/-! ### The index of a wait loop (40_sequencer R134) -/

/-- Held at a row whose bit 1 is clear, the index stays until READY and then moves two rows up. -/
theorem replaceBit_wait {row : StateIdx} (h : row.getLsbD 1 = false) :
    replaceBit row 1 false = row ∧ replaceBit row 1 true = row ||| 2 := by
  revert row
  decide

/-! ### A wait word that does other work -/

/-- The word in CW holds its own row: it accesses memory, waits for READY, raises no error, and loads nothing its access or its
next fetch of the row depends on. -/
structure HoldsWait (s : State) (row : StateIdx) : Prop where
  bit : row.getLsbD 1 = false
  ird : s.cw.ird = false
  cond : s.cw.cond = 1
  j : s.cw.j = row
  mioEn : s.cw.mioEn = true
  ldMar : s.cw.ldMar = false
  ldIr : s.cw.ldIr = false
  ldPc : s.cw.ldPc = false
  clean : errorOf s.cw s.ir = none
  row_eq : controlStoreAt s.params row = s.cw

/-- What the word in CW of `s` does not load is in `t` as it was in `s`. -/
structure Kept (s t : State) : Prop where
  mar : t.mar = s.mar
  ir : t.ir = s.ir
  pc : t.pc = s.pc
  fault : t.fault = none
  params : t.params = s.params
  flags : s.cw.ldCc = false → t.n = s.n ∧ t.z = s.z ∧ t.p = s.p
  ben : s.cw.ldBen = false → t.ben = s.ben
  regs : ∀ r : RegIdx, (s.cw.ldReg = false ∨ r ≠ destination s) → t.reg r = s.reg r

/-- `t` is `k` ticks into the access that began in `s`. -/
structure Waiting (s : State) (k : Nat) (t : State) : Prop where
  kept : Kept s t
  cw : t.cw = s.cw
  count : t.memCnt.toNat = k
  ready : t.ready = decide (k = 4)
  mdr : t.mdr = s.mdr
  mem : t.mem = s.mem

theorem Kept.refl {s : State} (hs : s.fault = none) : Kept s s :=
  ⟨rfl, rfl, rfl, hs, rfl, fun _ => ⟨rfl, rfl, rfl⟩, fun _ => rfl, fun _ _ => rfl⟩

theorem Waiting.start {s : State} (hr : s.Running) (hc : s.memCnt = 0) (hready : s.ready = false) : Waiting s 0 s :=
  ⟨Kept.refl hr.1, rfl, by simp [hc], by simp [hready], rfl, rfl⟩

section Wait

variable {s t : State} {row : StateIdx} {k : Nat} (hr : s.Running) (hs : HoldsWait s row) (hw : Waiting s k t)
include hs hw

theorem Waiting.holds : HoldsWait t row where
  bit := hs.bit
  ird := hw.cw ▸ hs.ird
  cond := hw.cw ▸ hs.cond
  j := hw.cw ▸ hs.j
  mioEn := hw.cw ▸ hs.mioEn
  ldMar := hw.cw ▸ hs.ldMar
  ldIr := hw.cw ▸ hs.ldIr
  ldPc := hw.cw ▸ hs.ldPc
  clean := by rw [hw.cw, hw.kept.ir, hs.clean]
  row_eq := by rw [hw.kept.params, hs.row_eq, hw.cw]

omit hw in
/-- One cycle of the word loads none of MAR, IR and PC. -/
theorem HoldsWait.kept_latched {bus : Option Word} (hf : s.fault = none) : Kept s (latched s bus) := by
  obtain ⟨hmar, hir, hpc, -, hcc, hben⟩ := latched_carries s bus
  refine ⟨hmar hs.ldMar, hir hs.ldIr, hpc hs.ldPc, hf, rfl, hcc, hben, fun r h => ?_⟩
  rw [latched_reg, if_neg]
  rintro ⟨hl, hd⟩
  rcases h with h | h
  · simp [hl] at h
  · exact h hd

theorem Waiting.kept_latched {bus : Option Word} : Kept s (latched t bus) := by
  have h := (hw.holds hs).kept_latched (bus := bus) hw.kept.fault
  have hd : destination t = destination s := by rw [destination, hw.cw, hw.kept.ir, destination]
  refine ⟨h.mar.trans hw.kept.mar, h.ir.trans hw.kept.ir, h.pc.trans hw.kept.pc, h.fault, h.params.trans hw.kept.params,
    fun hc => ?_, fun hb => (h.ben (hw.cw ▸ hb)).trans (hw.kept.ben hb), fun r hreg => ?_⟩
  · obtain ⟨hn, hz, hp⟩ := h.flags (hw.cw ▸ hc)
    obtain ⟨hn', hz', hp'⟩ := hw.kept.flags hc
    exact ⟨hn.trans hn', hz.trans hz', hp.trans hp'⟩
  · exact (h.regs r (by rw [hw.cw, hd]; exact hreg)).trans (hw.kept.regs r hreg)

include hr in
theorem Waiting.step_eq : step t = .next (latched t (busOf t)) :=
  step_of_clean ⟨hw.kept.fault, by rw [hw.kept.pc, hw.kept.params]; exact hr.2⟩ (hw.holds hs).clean

theorem Waiting.nextIndex_eq : nextIndex t = if k = 4 then row ||| 2 else row := by
  have h := hw.holds hs
  rw [nextIndex_memwait h.ird h.cond, h.j, hw.ready]
  split
  next h4 => rw [decide_eq_true h4, (replaceBit_wait hs.bit).2]
  next h4 => rw [decide_eq_false h4, (replaceBit_wait hs.bit).1]

omit hs in
/-- A register loaded under GATE_PC holds PC after the cycle. -/
theorem Waiting.gated_pc (hg : s.cw.gatePc = true) (hl : s.cw.ldReg = true) :
    (latched t (busOf t)).reg (destination s) = s.pc := by
  have hd : destination s = destination t := by rw [destination, ← hw.cw, ← hw.kept.ir, destination]
  rw [latched_reg, if_pos ⟨hw.cw ▸ hl, hd⟩]
  simp [busOf, hw.cw, hg, hw.kept.pc]

/-- On ticks 1 to 4 the access counts and the row holds. -/
theorem Waiting.next (hk : k < 4) : Waiting s (k + 1) (latched t (busOf t)) ∧ (latched t (busOf t)).stateIdx = row := by
  have h := hw.holds hs
  have hlt : t.memCnt.toNat < 4 := by rw [hw.count]; exact hk
  have hidx : nextIndex t = row := by rw [hw.nextIndex_eq hs, if_neg (by omega)]
  refine ⟨⟨hw.kept_latched hs, ?_, ?_, ?_, ?_, ?_⟩, hidx⟩
  · exact ((congrArg (controlStoreAt t.params) hidx).trans h.row_eq).trans hw.cw
  · change (nextCount t).toNat = k + 1
    rw [nextCount_of_lt h.mioEn hlt, hw.count, BitVec.toNat_ofNat]
    omega
  · exact (nextReady_of_mioEn h.mioEn).trans (by rw [hw.count])
  · simp only [latched, h.mioEn, if_true, readResult_of_not_fifth (not_fifth_of_lt hlt), Option.getD_none, ite_self, hw.mdr]
  · exact (nextMem_of_not_fifth (not_fifth_of_lt hlt)).trans hw.mem

end Wait

/-- On the 5th tick a read puts its result into MDR, if that is loaded. -/
theorem Waiting.fifth_mdr {s t : State} {row : StateIdx} {bus : Option Word} (hw : Waiting s 4 t)
    (hs : HoldsWait s row) : (latched t bus).mdr =
    if s.cw.ldMdr = true ∧ s.cw.rW = false then readAt s s.cw.dataSize else s.mdr := by
  have h := hw.holds hs
  have h4 : t.memCnt = 4 := BitVec.eq_of_toNat_eq hw.count
  have hread (wide : Bool) : readAt t wide = readAt s wide := by simp only [readAt, hw.mem, hw.kept.mar]
  simp only [latched, h.mioEn, if_true, hw.mdr, ← hw.cw]
  cases t.cw.ldMdr with
  | false => simp
  | true =>
    cases hrw : t.cw.rW with
    | false => simp [readResult_of_read h.mioEn hrw h4, hread]
    | true => simp [readResult_of_write hrw]

/-- On the 5th tick a write stores MDR at MAR. -/
theorem Waiting.fifth_mem {s t : State} {row : StateIdx} {bus : Option Word} (hw : Waiting s 4 t)
    (hs : HoldsWait s row) : (latched t bus).mem =
    if s.cw.rW = true then storeAt s.mem s.cw.dataSize s.mar s.mdr else s.mem := by
  have h := hw.holds hs
  have h4 : t.memCnt = 4 := BitVec.eq_of_toNat_eq hw.count
  change nextMem t = _
  rw [← hw.mem, ← hw.cw, ← hw.mdr, ← hw.kept.mar]
  split
  next hrw => exact nextMem_of_store h.mioEn hrw h4
  next hrw => exact nextMem_of_no_store fun hst => hrw hst.2.1

/-- The first four cycles of the access. -/
theorem HoldsWait.run_le_four {s : State} {row : StateIdx} (hr : s.Running) (hs : HoldsWait s row) (h0 : Waiting s 0 s) :
    ∀ k, k < 4 → ∃ t, core.run (k + 1) s = .next (latched t (busOf t)) ∧ Waiting s k t := by
  intro k hk
  induction k with
  | zero => exact ⟨s, run_snoc rfl (h0.step_eq hr hs), h0⟩
  | succ k ih =>
    obtain ⟨t, hrun, hw⟩ := ih (by omega)
    have hnext := (hw.next hs (by omega)).1
    exact ⟨_, run_snoc hrun (hnext.step_eq hr hs), hnext⟩

/-- The state before the last cycle of the access: four cycles have gone by, and the access is at its 5th tick. -/
theorem HoldsWait.run_four {s : State} {row : StateIdx} (hr : s.Running) (hs : HoldsWait s row) (h0 : Waiting s 0 s) :
    ∃ t, core.run 4 s = .next t ∧ Waiting s 4 t := by
  obtain ⟨t, ht, hw⟩ := hs.run_le_four hr h0 3 (by decide)
  exact ⟨_, ht, (hw.next hs (by decide)).1⟩

/-! ### The wait word alone -/

/-- A word that loads no flag, BEN or register leaves a state that differs in the access and the sequencer only. -/
theorem Kept.eq_of_no_loads {s t : State} (h : Kept s t) (hs : s.fault = none) (hcc : s.cw.ldCc = false)
    (hben : s.cw.ldBen = false) (hreg : s.cw.ldReg = false) :
    t = { s with
      mdr := t.mdr, memCnt := t.memCnt, ready := t.ready, stateIdx := t.stateIdx, cw := t.cw, mem := t.mem,
      lastBus := t.lastBus, cycle := t.cycle } := by
  obtain ⟨hn, hz, hp⟩ := h.flags hcc
  have hregs : t.regs = s.regs := Vector.ext fun i hi => h.regs (BitVec.ofNatLT i hi) (.inl hreg)
  rw [← h.mar, ← h.ir, ← h.pc, ← h.params, ← h.fault.trans hs.symm, ← hn, ← hz, ← hp, ← h.ben hben, ← hregs]

theorem holdsWait_waitWord {s : State} {row : StateIdx} {write wide : Bool} (hbit : row.getLsbD 1 = false)
    (hcw : s.cw = waitWord row write wide) (hrow : controlStoreAt s.params row = waitWord row write wide) :
    HoldsWait s row := by
  refine ⟨hbit, ?_, ?_, ?_, ?_, ?_, ?_, ?_, ?_, hrow.trans hcw.symm⟩ <;>
    simp [hcw, waitWord, ControlWord.zero, errorOf, gateCount, needsBus]

/-- A cycle of the wait word changes nothing but the access, the sequencer and the report of an undriven bus. -/
theorem Waiting.latched_waitWord {s t : State} {row : StateIdx} {write wide : Bool} {k : Nat} (hw : Waiting s k t)
    (hs : HoldsWait s row) (hcw : s.cw = waitWord row write wide) (hf : s.fault = none) :
    latched t (busOf t) = { s with
      mdr := (latched t (busOf t)).mdr, memCnt := nextCount t, ready := nextReady t, stateIdx := nextIndex t,
      cw := controlStoreAt s.params (nextIndex t), mem := (latched t (busOf t)).mem, lastBus := none, cycle := .idle } := by
  have hbus : busOf t = none := by simp [busOf, hw.cw, hcw, waitWord, ControlWord.zero]
  have h := (hw.kept_latched hs (bus := busOf t)).eq_of_no_loads hf (by simp [hcw, waitWord, ControlWord.zero])
    (by simp [hcw, waitWord, ControlWord.zero]) (by simp [hcw, waitWord, ControlWord.zero])
  rw [hbus] at h ⊢
  refine h.trans ?_
  rw [← hw.kept.params]
  rfl

/-- The first four cycles of the wait word. -/
theorem HoldsWait.run_waitWord {s : State} {row : StateIdx} {write wide : Bool} (hs : HoldsWait s row)
    (hcw : s.cw = waitWord row write wide) (hr : s.Running) (h0 : Waiting s 0 s) (k : Nat) (hk1 : 1 ≤ k) (hk4 : k ≤ 4) :
    core.run k s = .next
      { s with memCnt := BitVec.ofNat 3 k, ready := decide (k = 4), stateIdx := row, lastBus := none, cycle := .idle } := by
  obtain ⟨k, rfl⟩ := Nat.exists_eq_add_of_le' hk1
  obtain ⟨t, ht, hw⟩ := hs.run_le_four hr h0 k (by omega)
  obtain ⟨hn, hidx⟩ := hw.next hs (by omega)
  have hcount : nextCount t = BitVec.ofNat 3 (k + 1) :=
    BitVec.eq_of_toNat_eq ((hn.count).trans (by rw [BitVec.toNat_ofNat]; omega))
  have hindex : nextIndex t = row := hidx
  have hready : nextReady t = decide (k + 1 = 4) := hn.ready
  rw [ht, hw.latched_waitWord hs hcw hr.1, hn.mdr, hn.mem, hcount, hready, hindex, hs.row_eq]

/-- The fifth: the data in MDR or in memory, and the row two above. -/
theorem HoldsWait.run_waitWord_five {s : State} {row : StateIdx} {write wide : Bool} (hs : HoldsWait s row)
    (hcw : s.cw = waitWord row write wide) (hr : s.Running) (h0 : Waiting s 0 s) :
    core.run 5 s = .next
      { s with
        mdr := if write then s.mdr else readAt s wide
        mem := if write then storeAt s.mem wide s.mar s.mdr else s.mem
        memCnt := 0, ready := false, stateIdx := row ||| 2, cw := controlStoreAt s.params (row ||| 2), lastBus := none,
        cycle := .idle } := by
  obtain ⟨t, ht, hw⟩ := hs.run_four hr h0
  have h4 : t.memCnt = 4 := BitVec.eq_of_toNat_eq hw.count
  have hidx : nextIndex t = row ||| 2 := (hw.nextIndex_eq hs).trans (if_pos rfl)
  rw [run_snoc ht (hw.step_eq hr hs), hw.latched_waitWord hs hcw hr.1, hw.fifth_mdr hs, hw.fifth_mem hs, hidx,
    nextCount_of_fifth h4, nextReady_of_fifth h4]
  cases write <;> simp [hcw, waitWord]

/-! ### The host's runs (45_cycle R253, R254) -/

theorem runFor_of_step {s t : State} (hr : s.status = .running) (h : step s = .next t) (k : Nat) :
    runFor (k + 1) s = runFor k t := by
  simp [runFor, hr, h]

theorem runFor_of_stopped {s : State} (h : s.status ≠ .running) (k : Nat) : runFor k s = s := by
  cases k <;> simp [runFor, h]

theorem runUntilEnd_of_step {s t : State} (hr : s.status = .running) (h : step s = .next t) (k : Nat) :
    runUntilEnd (k + 1) s = runUntilEnd k t := by
  simp [runUntilEnd, hr, h]

theorem runUntilEnd_of_stopped {s : State} (h : s.status ≠ .running) (k : Nat) : runUntilEnd k s = some s := by
  cases k <;> simp [runUntilEnd, h]

theorem step_of_status_running {s : State} (h : s.status = .running) : ∃ t, step s = .next t :=
  step_of_no_fault (status_running_iff.mp h).1

theorem runFor_add (s : State) (j k : Nat) : runFor (j + k) s = runFor k (runFor j s) := by
  induction j generalizing s with
  | zero => rw [Nat.zero_add, runFor]
  | succ j ih =>
    by_cases hr : s.status = .running
    · obtain ⟨t, ht⟩ := step_of_status_running hr
      rw [Nat.add_right_comm, runFor_of_step hr ht, runFor_of_step hr ht, ih]
    · rw [runFor_of_stopped hr, runFor_of_stopped hr, runFor_of_stopped hr]

/-- Running until halt answers the state that running for the same cycles reaches, if that is the end of the run. -/
theorem runUntilEnd_eq_some_iff (s t : State) (k : Nat) :
    runUntilEnd k s = some t ↔ t.status ≠ .running ∧ runFor k s = t := by
  induction k generalizing s with
  | zero =>
    by_cases hr : s.status = .running
    · simp only [runUntilEnd, runFor, hr, if_true]
      exact ⟨fun h => (nomatch h), fun ⟨ht, hst⟩ => absurd (hst ▸ hr) ht⟩
    · rw [runUntilEnd_of_stopped hr, runFor, Option.some.injEq]
      exact ⟨fun h => ⟨h ▸ hr, h⟩, And.right⟩
  | succ k ih =>
    by_cases hr : s.status = .running
    · obtain ⟨u, hu⟩ := step_of_status_running hr
      rw [runUntilEnd_of_step hr hu, runFor_of_step hr hu, ih]
    · rw [runUntilEnd_of_stopped hr, runFor_of_stopped hr, Option.some.injEq]
      exact ⟨fun h => ⟨h ▸ hr, h⟩, And.right⟩

end Sys2Proof.Machine

open Sys2Proof Sys2Proof.Machine Sys2Proof.Machine.Reference

/-- Settles O51: four cycles count by `Waiting.next`, the fifth completes the access. -/
theorem anyWaitWordTakesFiveCycles : Obligations.AnyWaitWordTakesFiveCycles := by
  intro s row hr hbit hird hcond hj hmio hmar hir hpc hclean hrow hcnt hready hwf other
  have hs : HoldsWait s row := ⟨hbit, hird, hcond, hj, hmio, hmar, hir, hpc, hclean, hrow⟩
  have h0 := Waiting.start hr hcnt hready
  have hother : ∀ k t, Waiting s k t → other (latched t (busOf t)) := fun k t hw => by
    obtain ⟨hmar, hir, hpc, hfault, hparams, hcc, hben, hregs⟩ := hw.kept_latched hs (bus := busOf t)
    exact ⟨hmar, hir, hpc, hfault, hparams, hcc, hben, hregs, hw.gated_pc⟩
  have hrun := hs.run_le_four hr h0
  refine ⟨fun k hk1 hk4 => ?_, ?_⟩
  · obtain ⟨k, rfl⟩ := Nat.exists_eq_add_of_le' hk1
    obtain ⟨t, ht, hw⟩ := hrun k (by omega)
    obtain ⟨hn, hidx⟩ := hw.next hs (by omega)
    exact ⟨_, ht, hn.count, hn.ready, hidx, hn.cw, hn.mdr, hn.mem, hother k t hw⟩
  · obtain ⟨t, ht, hw⟩ := hs.run_four hr h0
    have h4 : t.memCnt = 4 := BitVec.eq_of_toNat_eq hw.count
    have hidx : nextIndex t = row ||| 2 := (hw.nextIndex_eq hs).trans (if_pos rfl)
    have hcw : (latched t (busOf t)).cw = controlStoreAt s.params (row ||| 2) := by
      rw [← hidx, ← hw.kept.params]
      rfl
    refine ⟨_, run_snoc ht (hw.step_eq hr hs), nextCount_of_fifth h4, nextReady_of_fifth h4, hidx, hcw, hother 4 t hw,
      fun hrd => ?_, fun hwr => ?_⟩
    · rw [hw.fifth_mdr hs, hw.fifth_mem hs]
      refine ⟨by simp [hrd], fun hl => by simp [hl], fun hl hd => ?_, fun hl hd => ?_⟩
      · rw [if_pos ⟨hl, hrd⟩, hd]
        exact readWord_toNat s.mem s.mar
      · rw [if_pos ⟨hl, hrd⟩, hd]
        exact readByte_toInt s.mem s.mar
    · rw [hw.fifth_mdr hs, hw.fifth_mem hs, if_pos hwr]
      exact ⟨by simp [hwr], byteAt_storeAt_toNat hwf _ _ _⟩

/-- Settles O38: a wait word that does no other work, so that nothing but the access shows. -/
theorem waitLoopReadTakesFiveCycles : Obligations.WaitLoopReadTakesFiveCycles := by
  intro s row wide hr hbit hcw hrow hcnt hready
  have hs := holdsWait_waitWord hbit hcw hrow
  have h0 := Waiting.start hr hcnt hready
  refine ⟨hs.run_waitWord hcw hr h0, readAt s wide, hs.run_waitWord_five hcw hr h0, ?_, ?_⟩
  · rintro rfl
    exact readWord_toNat s.mem s.mar
  · rintro rfl
    exact readByte_toInt s.mem s.mar

/-- Settles O39: as for a read; the last cycle stores. -/
theorem waitLoopWriteTakesFiveCycles : Obligations.WaitLoopWriteTakesFiveCycles := by
  intro s row wide hr hbit hcw hrow hcnt hready hwf
  have hs := holdsWait_waitWord hbit hcw hrow
  have h0 := Waiting.start hr hcnt hready
  exact ⟨hs.run_waitWord hcw hr h0, _, hs.run_waitWord_five hcw hr h0, byteAt_storeAt_toNat hwf wide s.mar s.mdr⟩

/-- Settles O50: a running machine steps, and a stopped one stays. -/
theorem runForStopsAtTheEndOfTheRun : Obligations.RunForStopsAtTheEndOfTheRun := fun s j k =>
  ⟨fun _ hr h => ⟨runFor_of_step hr h k, runUntilEnd_of_step hr h k⟩, step_of_status_running, rfl, fun hr => if_pos hr,
    fun hr => ⟨runFor_of_stopped hr k, runUntilEnd_of_stopped hr k⟩, runFor_add s j k, fun t => runUntilEnd_eq_some_iff s t k⟩
end
